-- ==== Sys2Proof/Word.lean ====
section
/-! DEFINITION. The word types of LMDC (00_scope.md R10: bit `b` has weight `2^b`, bit 0 least significant). -/

namespace Sys2Proof

/-- A buffer byte, a glyph column, a bus payload byte, a device register number. -/
abbrev Byte := BitVec 8

/-- A command word, presented whole by the host (30_encoding.md R80). -/
abbrev Word := BitVec 32

/-- A glyph: five column bytes, column 0 first (40_font_lookup.md R111). -/
abbrev Glyph := Vector Byte 5

/-- A pixel buffer: eight bytes, index 0 first (10_state.md R21, R22). -/
abbrev Buffer := Vector Byte 8

/-- The font ROM: 95 glyphs of five bytes (20_memory.md R51). -/
abbrev FontRom := Vector Byte 475

end Sys2Proof
end

