-- ==== Sys2Proof/Config.lean ====
section
/-! DEFINITION. The parameters of 00_scope.md R9 and the free values of the spec: what it leaves open, as opaque constants. -/

namespace Sys2Proof

/-- The outcome of one bus write (20_memory.md R58). -/
inductive BusOutcome
  | success
  | failure
  deriving DecidableEq, Repr, Inhabited

/-- RDP_BIT: the bit of RBUF[6] that is the right decimal point. Six is the spec's choice, seven the reading it
sets aside and asks a model to keep nameable (10_state.md R22, D16). -/
inductive RdpBit
  | bit6
  | bit7
  deriving DecidableEq, Repr

/-- The bit index that an `RdpBit` names. -/
def RdpBit.index : RdpBit → Nat
  | .bit6 => 6
  | .bit7 => 7

/-- ROUND_TIE: where `round` takes an exact half (41_config_ops.md R121, D6). -/
inductive RoundTie
  | toEven
  | upward
  deriving DecidableEq, Repr

/-- The parameters a model takes as arguments (00_scope.md R9). State carries one `Config`, which no step writes
(DESIGN CHOICE, log 1). -/
structure Config where
  font     : FontRom
  rdpBit   : RdpBit
  roundTie : RoundTie
  deriving DecidableEq, Repr

/-- R112 as a hypothesis on FONT: bit 7 of every glyph byte is 0. -/
def Config.FontOk (c : Config) : Prop :=
  ∀ (a : Nat) (h : a < 475), c.font[a].getLsbD 7 = false

/-- FREE VALUE: the contents of the font ROM at each address, which no source gives (R115, log 2). Seven bits, since
R112 fixes bit 7. -/
opaque Config.fontByte : Nat → BitVec 7

/-- FREE VALUE: the answer of the bus transport to the n-th write that `busScript` does not cover; `none` is a write
that is never answered (R58, R245, D26, log 6). -/
opaque Config.busAnswer : Nat → Option BusOutcome

/-- FREE VALUE: what ADDR holds after the n-th reset (R35 gives no value, log 5). -/
opaque Config.resetAddr : Nat → BitVec 7

/-- FREE VALUE: what BRIGHT holds after the n-th reset (R35 gives no value, log 5). -/
opaque Config.resetBright : Nat → BitVec 7

/-- FREE VALUE: what LBUF[i] holds after the n-th reset (R35 gives no value, log 5). -/
opaque Config.resetLbuf : Nat → Nat → Byte

/-- FREE VALUE: what RBUF[i] holds after the n-th reset (R35 gives no value, log 5). -/
opaque Config.resetRbuf : Nat → Nat → Byte

/-- The machine's own parameters: FONT open, RDP_BIT = 6, ROUND_TIE = half to even (R9). -/
def Config.machine : Config where
  font     := Vector.ofFn fun a => (Config.fontByte a.val).setWidth 8
  rdpBit   := .bit6
  roundTie := .toEven

end Sys2Proof
end

