-- ==== Sys2Proof/Syntax.lean ====
section
/-! DEFINITION. The eight commands of the command set (00_scope.md R3), one constructor per row of
spec/opcode_table.json, with the operands of the formats of 30_encoding.md R81. -/

namespace Sys2Proof

/-- A command with its operands. `showFrame` is SHOW (`show` is a word of Lean's). -/
inductive Instr
  /-- CONSTRUCT, format A: the 8-bit address and the level (R84, R85). -/
  | construct (addr : BitVec 8) (lvl : BitVec 16)
  /-- CLEAR, format Z. -/
  | clear
  /-- SETBRT, format L: transmit, and the level. -/
  | setbrt (t : Bool) (lvl : BitVec 16)
  /-- SETDEC, format D: two tri-states, bit 1 "has a value", bit 0 the value (R86). -/
  | setdec (l r : BitVec 2)
  /-- SETPIX, format P: the state and the coordinates (R87). -/
  | setpix (s : Bool) (x y : BitVec 8)
  /-- SETCHR, format C: the x offset and the character code (R87, R88). -/
  | setchr (xo ch : BitVec 8)
  /-- SETPAIR, format T: the length of the text and its first two codes (R88, R89). -/
  | setpair (len : BitVec 4) (c0 c1 : BitVec 8)
  /-- SHOW, format Z. -/
  | showFrame
  deriving DecidableEq, Repr

/-- The opcode `W[31:28]` of each command (R82). -/
def Instr.opcode : Instr → BitVec 4
  | .construct _ _ => 0x1#4
  | .clear => 0x2#4
  | .setbrt _ _ => 0x3#4
  | .setdec _ _ => 0x4#4
  | .setpix _ _ _ => 0x5#4
  | .setchr _ _ => 0x6#4
  | .setpair _ _ _ => 0x7#4
  | .showFrame => 0x8#4

end Sys2Proof
end

