-- ==== Sys2Proof/WellFormed.lean ====
section
/-! DEFINITION. Which terms of `Instr` some command word spells: all but SETDEC with the reserved tri-state code
(30_encoding.md R86). Every other field admits every value of its width; the ranges of addresses, coordinates, codes
and lengths are checked by the commands, not by the decoder (R85, R87, R88, R89). -/

namespace Sys2Proof

/-- A tri-state code other than the reserved 0b01 (R86). -/
def triOk (c : BitVec 2) : Bool := c != 0b01#2

/-- The check the decoder's outputs meet. -/
def Instr.wellFormed : Instr → Bool
  | .construct _ _ => true
  | .clear => true
  | .setbrt _ _ => true
  | .setdec l r => triOk l && triOk r
  | .setpix _ _ _ => true
  | .setchr _ _ => true
  | .setpair _ _ _ => true
  | .showFrame => true

end Sys2Proof
end

