-- ==== Sys2Proof/Decode.lean ====
section
/-! DEFINITION. The decoder of 30_encoding.md R83, total on all 2^32 words and rejecting by name, then the encoder of
the format tables of R81, then the opcode map R82 as rows of match and mask. -/

namespace Sys2Proof

/-- Why a word spells no command. All three end the word with ERR_ILLEGAL (R90, R91, R206). -/
inductive DecodeError
  /-- Opcode 0x0 or 0x9 to 0xF (R90). -/
  | reservedOpcode
  /-- A 1 in a reserved bit of the opcode's format (R91). -/
  | reservedBit
  /-- The code 0b01 in a tri-state field (R86, R91). -/
  | reservedTriState
  deriving DecidableEq, Repr

/-- `field w lo n` is `w[lo+n-1 : lo]` (R10). -/
def field (w : Word) (lo n : Nat) : BitVec n := w.extractLsb' lo n

/-- The decoder, one line per opcode as R83 has them. -/
def decode (w : Word) : Except DecodeError Instr :=
  if field w 28 4 = 0x1#4 then
    if field w 24 4 ≠ 0 then .error .reservedBit
    else .ok (.construct (field w 16 8) (field w 0 16))
  else if field w 28 4 = 0x2#4 then
    if field w 0 28 ≠ 0 then .error .reservedBit
    else .ok .clear
  else if field w 28 4 = 0x3#4 then
    if field w 17 11 ≠ 0 then .error .reservedBit
    else .ok (.setbrt (w.getLsbD 16) (field w 0 16))
  else if field w 28 4 = 0x4#4 then
    if field w 4 24 ≠ 0 then .error .reservedBit
    else if field w 2 2 = 0b01#2 ∨ field w 0 2 = 0b01#2 then .error .reservedTriState
    else .ok (.setdec (field w 2 2) (field w 0 2))
  else if field w 28 4 = 0x5#4 then
    if field w 17 11 ≠ 0 then .error .reservedBit
    else .ok (.setpix (w.getLsbD 16) (field w 8 8) (field w 0 8))
  else if field w 28 4 = 0x6#4 then
    if field w 16 12 ≠ 0 then .error .reservedBit
    else .ok (.setchr (field w 8 8) (field w 0 8))
  else if field w 28 4 = 0x7#4 then
    if field w 20 8 ≠ 0 then .error .reservedBit
    else .ok (.setpair (field w 16 4) (field w 8 8) (field w 0 8))
  else if field w 28 4 = 0x8#4 then
    if field w 0 28 ≠ 0 then .error .reservedBit
    else .ok .showFrame
  else .error .reservedOpcode

/-- The encoder, each line a format table of R81 read from bit 31 down. -/
def encode : Instr → Word
  | .construct addr lvl => 0x1#4 ++ 0#4 ++ addr ++ lvl
  | .clear => 0x2#4 ++ 0#28
  | .setbrt t lvl => 0x3#4 ++ 0#11 ++ BitVec.ofBool t ++ lvl
  | .setdec l r => 0x4#4 ++ 0#24 ++ l ++ r
  | .setpix s x y => 0x5#4 ++ 0#11 ++ BitVec.ofBool s ++ x ++ y
  | .setchr xo ch => 0x6#4 ++ 0#12 ++ xo ++ ch
  | .setpair len c0 c1 => 0x7#4 ++ 0#8 ++ len ++ c0 ++ c1
  | .showFrame => 0x8#4 ++ 0#28

/-- The instruction the decoder reads from a table word. The command word has no byte order (R80), so its bits are the
table's. A word beyond 32 bits is no command word. -/
def decodeTableWord (nbits w : Nat) : Option Instr :=
  if w % 2 ^ nbits < 2 ^ 32 then
    match decode (BitVec.ofNat 32 (w % 2 ^ nbits)) with
    | .ok i => some i
    | .error _ => none
  else none

/-- The commands without their operands: the rows of R82. -/
inductive Mnemonic
  | construct
  | clear
  | setbrt
  | setdec
  | setpix
  | setchr
  | setpair
  | showFrame
  deriving DecidableEq, Repr

/-- The row an instruction belongs to. -/
def Instr.mnemonic : Instr → Mnemonic
  | .construct _ _ => .construct
  | .clear => .clear
  | .setbrt _ _ => .setbrt
  | .setdec _ _ => .setdec
  | .setpix _ _ _ => .setpix
  | .setchr _ _ => .setchr
  | .setpair _ _ _ => .setpair
  | .showFrame => .showFrame

/-- The `match` column of R82. -/
def Mnemonic.matchWord : Mnemonic → Word
  | .construct => 0x10000000#32
  | .clear => 0x20000000#32
  | .setbrt => 0x30000000#32
  | .setdec => 0x40000000#32
  | .setpix => 0x50000000#32
  | .setchr => 0x60000000#32
  | .setpair => 0x70000000#32
  | .showFrame => 0x80000000#32

/-- The `mask` column of R82. -/
def Mnemonic.maskWord : Mnemonic → Word
  | .construct => 0xFF000000#32
  | .clear => 0xFFFFFFFF#32
  | .setbrt => 0xFFFE0000#32
  | .setdec => 0xFFFFFFF0#32
  | .setpix => 0xFFFE0000#32
  | .setchr => 0xFFFF0000#32
  | .setpair => 0xFFF00000#32
  | .showFrame => 0xFFFFFFFF#32

end Sys2Proof
end

