-- ==== Sys2Proof/Machine/State.lean ====
section
/-! DEFINITION. The state of LMDC as plain data: the elements of 10_state.md R20 and R30, the observations of R33,
R34 and R251, the parameters of 00_scope.md R9, and the inputs of the environment (70_reset_and_hazards.md R252). -/

namespace Sys2Proof.Machine

/-- The status that ends a command (60_exceptions.md R200). -/
inductive Status
  | ok
  | errAddress
  | errRange
  | errGlyph
  | errLength
  | errTransmit
  | errIllegal
  | errUnconfigured
  deriving DecidableEq, Repr

/-- The 3-bit code of a status (R200). -/
def Status.code : Status → BitVec 3
  | .ok => 0
  | .errAddress => 1
  | .errRange => 2
  | .errGlyph => 3
  | .errLength => 4
  | .errTransmit => 5
  | .errIllegal => 6
  | .errUnconfigured => 7

/-- The six steps of the sequencer, by the names of 44_show.md R181. -/
inductive ShowStep
  | matrixLeft
  | matrixRight
  | mode
  | options
  | brightness
  | update
  deriving DecidableEq, Repr

/-- One answered bus write, an entry of TRACE (R33). -/
structure BusWrite where
  addr    : BitVec 7
  reg     : Byte
  bytes   : List Byte
  outcome : BusOutcome
  deriving DecidableEq, Repr

/-- What a fully successful SHOW has sent (R34). -/
structure Frame where
  left   : Buffer
  right  : Buffer
  bright : BitVec 7
  deriving DecidableEq, Repr

/-- What the host can do between commands (R252): present a word, or assert reset. -/
inductive HostInput
  | word (w : Word)
  | reset
  deriving DecidableEq, Repr

/-- The machine. -/
@[ext]
structure State where
  /-- CONFIGURED (R29). -/
  configured : Bool
  /-- ADDR (R28). -/
  addr : BitVec 7
  /-- BRIGHT (R27). -/
  bright : BitVec 7
  /-- LBUF (R21). -/
  lbuf : Buffer
  /-- RBUF (R22). -/
  rbuf : Buffer
  /-- SEQ (R30): the step of a SHOW in progress, `none` while it is not live. -/
  seq : Option ShowStep
  /-- TRACE (R33), oldest first. -/
  trace : List BusWrite
  /-- SHOWN (R34). -/
  shown : Option Frame
  /-- The statuses returned to the host, oldest first (R93, R251). -/
  responses : List Status
  /-- The parameters FONT, RDP_BIT and ROUND_TIE (R9), which no step writes. -/
  cfg : Config
  /-- What the host does next, in order (R251, R252). -/
  port : List HostInput
  /-- The bus transport's next answers, in order; `none` is a write that is never answered (R58, R245). -/
  busScript : List (Option BusOutcome)
  /-- MODEL'S OWN: how many free answers have been drawn after the script (log 6). -/
  busDraws : Nat
  /-- MODEL'S OWN: how many resets have been asserted, the index of the free values after reset (log 5). -/
  resets : Nat
  deriving DecidableEq, Repr

/-- Why the machine stops. -/
inductive Fault
  /-- Raised by SETBRT with transmit and by SHOW when a bus write is never answered: the controller is stuck
  (20_memory.md R58, 70_reset_and_hazards.md R245, U10). Carries SEQ where the controller waits, `none` for SETBRT.
  Safe: the hardware makes no further step either. -/
  | busNeverAnswers (waitingAt : Option ShowStep)
  deriving DecidableEq, Repr

/-- Why an instruction has no meaning. -/
inductive Refusal
  /-- Raised by `exec` for an instruction that is not modelled. Safe. No arm raises it. -/
  | notModelled (mnemonic : String)
  deriving DecidableEq, Repr

/-- What a command or a step answers. -/
abbrev Result := Host.Outcome State Fault Refusal

/-- The machine after hardware reset (10_state.md R35). ADDR, BRIGHT, LBUF and RBUF hold free values, since the spec gives
none and forbids zero (U15; DESIGN CHOICE, log 5). No input is placed. -/
def State.reset : State where
  configured := false
  addr := Config.resetAddr 0
  bright := Config.resetBright 0
  lbuf := Vector.ofFn fun i => Config.resetLbuf 0 i.val
  rbuf := Vector.ofFn fun i => Config.resetRbuf 0 i.val
  seq := none
  trace := []
  shown := none
  responses := []
  cfg := Config.machine
  port := []
  busScript := []
  busDraws := 0
  resets := 0

end Sys2Proof.Machine
end

