-- ==== Sys2Proof/Machine/Operands.lean ====
section
/-! DEFINITION. The operand forms of 30_encoding.md R84 to R89 and the brightness conversion of 41_config_ops.md R121. -/

namespace Sys2Proof.Machine

/-- The three legal device addresses, compared on all 8 bits (R85, R120). -/
def legalAddress (addr : BitVec 8) : Bool :=
  addr == 0x61#8 || addr == 0x62#8 || addr == 0x63#8

/-- The numerator of a level operand: `level = n / 256` with `n = sext_16(lvl)` (R84). -/
def levelNum (lvl : BitVec 16) : Int := lvl.toInt

/-- `clamp(v, lo, hi)` (R11). -/
def clamp (v lo hi : Int) : Int :=
  if v < lo then lo else if v > hi then hi else v

/-- `round(n / d)` to the nearest integer in exact arithmetic, an exact half by ROUND_TIE (R121, D6). -/
def roundRatio (tie : RoundTie) (n : Int) (d : Nat) : Int :=
  let q := n / (d : Int)
  let r := n % (d : Int)
  if 2 * r < d then q
  else if 2 * r > d then q + 1
  else match tie with
    | .toEven => if q % 2 = 0 then q else q + 1
    | .upward => q + 1

/-- `BrightOf(level) = clamp(round(level × 127), 0, 127)` for the level `n / d` (R121). -/
def brightOfRatio (tie : RoundTie) (n : Int) (d : Nat) : Int :=
  clamp (roundRatio tie (127 * n) d) 0 127

/-- BrightOf of an encoded level, in the 7 bits of BRIGHT (R27, R84, R121). -/
def brightOf (tie : RoundTie) (lvl : BitVec 16) : BitVec 7 :=
  BitVec.ofInt 7 (brightOfRatio tie (levelNum lvl) 256)

/-- `setbit(v, b, s)`: the byte with bit `b` replaced by `s` (R11). -/
def setBit (v : Byte) (b : Nat) (s : Bool) : Byte :=
  (v &&& ~~~(1#8 <<< b)) ||| ((BitVec.ofBool s).setWidth 8 <<< b)

/-- A tri-state operand on one bit of a byte: bit 1 says whether it has a value, bit 0 is the value (R86, R141). -/
def applyTri (t : BitVec 2) (b : Nat) (v : Byte) : Byte :=
  if t.getLsbD 1 then setBit v b (t.getLsbD 0) else v

end Sys2Proof.Machine
end

