-- ==== Sys2Proof/Machine/Flags.lean ====
section
/-! DEFINITION. The flags of LMDC: the two decimal points (10_state.md R24), CONFIGURED's test, and no other (R31: no
condition codes, no sticky error bits). -/

namespace Sys2Proof.Machine

/-- LDP, the left decimal point: bit 6 of LBUF[7] (R24). -/
def ldp (s : State) : Bool := s.lbuf[7].getLsbD 6

/-- RDP, the right decimal point: bit RDP_BIT of RBUF[6] (R24). -/
def rdp (s : State) : Bool := s.rbuf[6].getLsbD s.cfg.rdpBit.index

/-- The effect of SETDEC's operands on the two flags (42_buffer_ops.md R141). -/
def setDecimals (l r : BitVec 2) (s : State) : State :=
  { s with
    lbuf := s.lbuf.set 7 (applyTri l 6 s.lbuf[7])
    rbuf := s.rbuf.set 6 (applyTri r s.cfg.rdpBit.index s.rbuf[6]) }

end Sys2Proof.Machine
end

