-- ==== Sys2Proof/Machine/Ops.lean ====
section
/-! DEFINITION. The shared operations: ending a command with a status (the only exception entry of LMDC), the pixel cells,
the font ROM read, the bus write primitive, the register-write sequencer's table, reset. -/

namespace Sys2Proof.Machine

/-! ### Ending a command -/

/-- Return a status to the host on the command port (R93). -/
def respond (st : Status) (s : State) : State :=
  { s with responses := s.responses ++ [st] }

/-- `raise S` (60_exceptions.md R210): the command ends at once with status S in the state as it stands. Nothing is
saved, no mode changes, no control is transferred. There is no return from it: the next command runs normally from
this state (R211). -/
def raise (st : Status) (s : State) : Result := .next (respond st s)

/-- `return OK` (R11). -/
def returnOk (s : State) : Result := .next (respond .ok s)

/-- The check that every command but CONSTRUCT makes first (R207, rank 2 of R209). -/
def requireConfigured (s : State) (body : Result) : Result :=
  if s.configured then body else raise .errUnconfigured s

/-- A word that spells no command (R206). -/
def illegalWord (s : State) : Result := raise .errIllegal s

/-! ### The pixel buffers -/

/-- PIX(x, y), the buffer bit that holds pixel (x, y) (10_state.md R23). -/
def pix (s : State) (x : Fin 10) (y : Fin 8) : Bool :=
  if h : x.val ≤ 4 then s.lbuf[x.val].getLsbD y.val else s.rbuf[y.val].getLsbD (x.val - 5)

/-- `WritePix(x, y, b)` (42_buffer_ops.md R142): byte x, bit y on the left; byte y, bit x - 5 on the right. -/
def writePix (x : Fin 10) (y : Fin 8) (b : Bool) (s : State) : State :=
  if h : x.val ≤ 4 then
    { s with lbuf := s.lbuf.set x.val (setBit s.lbuf[x.val] y.val b) }
  else
    { s with rbuf := s.rbuf.set y.val (setBit s.rbuf[y.val] (x.val - 5) b) }

/-- Both buffers zero (R140, R120). -/
def clearBuffers (s : State) : State :=
  { s with lbuf := Vector.replicate 8 0#8, rbuf := Vector.replicate 8 0#8 }

/-! ### Glyphs -/

/-- `MemRead(a, 5)` of the font ROM (R11, 20_memory.md R51). -/
def fontRead (font : FontRom) (a : Nat) (h : a + 5 ≤ 475) : Glyph :=
  Vector.ofFn fun i => font[a + i.val]

/-- `lookup(code)` (40_font_lookup.md R110): `none` is ERR_GLYPH. No substitute glyph (R113). -/
def lookup (font : FontRom) (code : Nat) : Option Glyph :=
  if h : 32 ≤ code ∧ code ≤ 126 then some (fontRead font ((code - 32) * 5) (by omega)) else none

/-- The two loops of PutChar (43_character_ops.md R160): glyph column `cx` goes to display column `xo + cx`, row `cy` to
row `cy`. -/
def putGlyph (xo : Fin 6) (g : Glyph) (s : State) : State :=
  (List.finRange 5).foldl
    (fun s cx => (List.finRange 8).foldl
      (fun s cy => writePix ⟨xo.val + cx.val, by omega⟩ cy (g[cx.val].getLsbD cy.val) s) s) s

/-- `PutChar(xo, ch)` (R160): the lookup first, then the offset, then the 40 bits. An error is raised before anything
is written. -/
def putChar (xo ch : Nat) (s : State) : Except Status State :=
  match lookup s.cfg.font ch with
  | none => .error .errGlyph
  | some g => if h : xo ≤ 5 then .ok (putGlyph ⟨xo, by omega⟩ g s) else .error .errRange

/-! ### The bus-write port -/

/-- What one call of the transport gives: an answer, or the controller waits for ever (20_memory.md R58). -/
inductive WriteResult
  | answered (o : BusOutcome) (s : State)
  | never

/-- The next answer of the transport: from the script, then a free value (D26, log 6). -/
def nextAnswer (s : State) : Option BusOutcome × State :=
  match s.busScript with
  | a :: rest => (a, { s with busScript := rest })
  | [] => (Config.busAnswer s.busDraws, { s with busDraws := s.busDraws + 1 })

/-- TRACE grows by one answered write (10_state.md R33). -/
def record (w : BusWrite) (s : State) : State := { s with trace := s.trace ++ [w] }

/-- `MemWrite(reg, n, v)` (R58): one write to the device at ADDR, recorded in TRACE with its outcome. -/
def memWrite (reg : Byte) (bytes : List Byte) (s : State) : WriteResult :=
  match nextAnswer s with
  | (some o, s') => .answered o (record ⟨s.addr, reg, bytes, o⟩ s')
  | (none, _) => .never

/-- The controller waits for an answer that never comes (R245): stuck, at SEQ when a SHOW is running. -/
def stuck (s : State) : Result := .fault (.busNeverAnswers s.seq)

/-- The display can no longer be vouched for: SHOWN becomes unspecified (10_state.md R34). -/
def forgetShown (s : State) : State := { s with shown := none }

/-! ### The register-write sequencer's index and table -/

/-- SEQ moves to a step, or stops being live (10_state.md R30). -/
def setSeq (k : Option ShowStep) (s : State) : State := { s with seq := k }

/-- The frame a SHOW sends (10_state.md R34). -/
def frameOf (s : State) : Frame := ⟨s.lbuf, s.rbuf, s.bright⟩

/-- All six writes have succeeded: SHOWN is the frame (10_state.md R34). -/
def noteShown (s : State) : State := { s with shown := some (frameOf s) }

/-- The device's register number for each step (20_memory.md R52, 44_show.md R181). -/
def showReg : ShowStep → Byte
  | .matrixLeft => 0x0E#8
  | .matrixRight => 0x01#8
  | .mode => 0x00#8
  | .options => 0x0D#8
  | .brightness => 0x19#8
  | .update => 0x0C#8

/-- The payload of each step (R181): whole buffers, index 0 first, the constants, and BRIGHT. -/
def showBytes (k : ShowStep) (s : State) : List Byte :=
  match k with
  | .matrixLeft => s.lbuf.toList
  | .matrixRight => s.rbuf.toList
  | .mode => [0x18#8]
  | .options => [0x0E#8]
  | .brightness => [s.bright.setWidth 8]
  | .update => [0x01#8]

/-- The order of the six writes (R181). -/
def showOrder : List ShowStep :=
  [.matrixLeft, .matrixRight, .mode, .options, .brightness, .update]

/-! ### Reset -/

/-- The reset input, asserted between commands (70_reset_and_hazards.md R230, 10_state.md R35). No status is returned and
no bus write issued. ADDR, BRIGHT, LBUF and RBUF take free values (log 5). -/
def takeReset (s : State) : Result :=
  .next { s with
    configured := false
    addr := Config.resetAddr (s.resets + 1)
    bright := Config.resetBright (s.resets + 1)
    lbuf := Vector.ofFn fun i => Config.resetLbuf (s.resets + 1) i.val
    rbuf := Vector.ofFn fun i => Config.resetRbuf (s.resets + 1) i.val
    seq := none
    trace := []
    shown := none
    resets := s.resets + 1 }

end Sys2Proof.Machine
end

