-- ==== Sys2Proof/Machine/BufferOps.lean ====
section
/-! DEFINITION. The buffer commands CLEAR, SETDEC and SETPIX (42_buffer_ops.md). -/

namespace Sys2Proof.Machine

/-- CLEAR (R140). -/
def execClear (s : State) : Result :=
  requireConfigured s (returnOk (clearBuffers s))

/-- SETDEC (R141). The reserved tri-state code never reaches it (R83); by the rule's own test of bit 1 it would leave its
side unchanged (DEDUCED, log 13). -/
def execSetdec (l r : BitVec 2) (s : State) : Result :=
  requireConfigured s (returnOk (setDecimals l r s))

/-- SETPIX (R142): the range check before anything is written. -/
def execSetpix (b : Bool) (x y : BitVec 8) (s : State) : Result :=
  requireConfigured s <|
    if h : x.toNat ≤ 9 ∧ y.toNat ≤ 7 then
      returnOk (writePix ⟨x.toNat, by omega⟩ ⟨y.toNat, by omega⟩ b s)
    else raise .errRange s

end Sys2Proof.Machine
end

