-- ==== Sys2Proof/Machine/CharOps.lean ====
section
/-! DEFINITION. The character commands SETCHR and SETPAIR (43_character_ops.md). -/

namespace Sys2Proof.Machine

/-- SETCHR (R160). -/
def execSetchr (xo ch : BitVec 8) (s : State) : Result :=
  requireConfigured s <|
    match putChar xo.toNat ch.toNat s with
    | .ok s' => returnOk s'
    | .error st => raise st s

/-- SETPAIR (R163): the length first, then the two characters in order. When the second one's lookup fails, the left
matrix is already written and stays so (D12). -/
def execSetpair (len : BitVec 4) (c0 c1 : BitVec 8) (s : State) : Result :=
  requireConfigured s <|
    if len = 2#4 then
      match putChar 0 c0.toNat s with
      | .error st => raise st s
      | .ok s₁ =>
        match putChar 5 c1.toNat s₁ with
        | .error st => raise st s₁
        | .ok s₂ => returnOk s₂
    else raise .errLength s

end Sys2Proof.Machine
end

