-- ==== Sys2Proof/Machine/ConfigOps.lean ====
section
/-! DEFINITION. The configuration commands CONSTRUCT and SETBRT (41_config_ops.md). -/

namespace Sys2Proof.Machine

/-- CONSTRUCT (R120). The only command that does not test CONFIGURED. -/
def execConstruct (addr : BitVec 8) (lvl : BitVec 16) (s : State) : Result :=
  if legalAddress addr then
    returnOk { clearBuffers s with
      addr := addr.setWidth 7
      bright := brightOf s.cfg.roundTie lvl
      configured := true }
  else raise .errAddress s

/-- BRIGHT takes BrightOf of the level (R121, R122). -/
def setBright (lvl : BitVec 16) (s : State) : State :=
  { s with bright := brightOf s.cfg.roundTie lvl }

/-- The single write of the brightness register, carrying the value stored just before (R122). -/
def transmitBright (s : State) : Result :=
  match memWrite (showReg .brightness) (showBytes .brightness s) s with
  | .answered .success s' => returnOk (forgetShown s')
  | .answered .failure s' => raise .errTransmit (forgetShown s')
  | .never => stuck s

/-- SETBRT (R122): BRIGHT always, one write of the brightness register when `t`. -/
def execSetbrt (t : Bool) (lvl : BitVec 16) (s : State) : Result :=
  requireConfigured s <|
    if t then transmitBright (setBright lvl s) else returnOk (setBright lvl s)

end Sys2Proof.Machine
end

