-- ==== Sys2Proof/Machine/ShowOps.lean ====
section
/-! DEFINITION. The register-write sequencer, command SHOW (44_show.md). One step runs all six writes, as 10_state.md R30
allows; SEQ stands in the state meanwhile. -/

namespace Sys2Proof.Machine

/-- The remaining writes, in order, each after the success of the one before (R180, R181). The first failure ends the
command (R182). When none remains, all six have succeeded and the frame has been sent (R34). -/
def sequencer : List ShowStep → State → Result
  | [], s => returnOk (noteShown (setSeq none s))
  | k :: rest, s =>
    match memWrite (showReg k) (showBytes k s) (setSeq (some k) s) with
    | .answered .success s' => sequencer rest s'
    | .answered .failure s' => raise .errTransmit (forgetShown (setSeq none s'))
    | .never => stuck (setSeq (some k) s)

/-- SHOW (R180). -/
def execShowFrame (s : State) : Result :=
  requireConfigured s (sequencer showOrder s)

end Sys2Proof.Machine
end

