-- ==== Sys2Proof/Machine/Dispatch.lean ====
section
/-! DEFINITION. One arm per command, each a direct call of its meaning. -/

namespace Sys2Proof.Machine

def exec (i : Instr) (s : State) : Host.Outcome State Fault Refusal :=
  match i with
  | .construct addr lvl => Sys2Proof.Machine.execConstruct addr lvl s
  | .clear => Sys2Proof.Machine.execClear s
  | .setbrt t lvl => Sys2Proof.Machine.execSetbrt t lvl s
  | .setdec l r => Sys2Proof.Machine.execSetdec l r s
  | .setpix b x y => Sys2Proof.Machine.execSetpix b x y s
  | .setchr xo ch => Sys2Proof.Machine.execSetchr xo ch s
  | .setpair len c0 c1 => Sys2Proof.Machine.execSetpair len c0 c1 s
  | .showFrame => Sys2Proof.Machine.execShowFrame s

end Sys2Proof.Machine
end

