-- ==== Sys2Proof/Machine/Step.lean ====
section
/-! DEFINITION. One step: the controller takes the host's next input from the command port and completes it (20_memory.md
R57, R60; 70_reset_and_hazards.md R251, R252). Decoding comes before every other check (R83, R209). -/

namespace Sys2Proof.Machine

/-- One step. With no input the controller waits, unchanged (DESIGN CHOICE, log 8). -/
def step (s : State) : Host.Outcome State Fault Refusal :=
  match s.port with
  | [] => .next s
  | .reset :: rest => takeReset { s with port := rest }
  | .word w :: rest =>
    match decode w with
    | .ok i => exec i { s with port := rest }
    | .error _ => illegalWord { s with port := rest }

/-- The host presents the command word `w` next (log 8). -/
def State.withFetchWord (s : State) (nbits w : Nat) : State :=
  { s with port := .word (BitVec.ofNat 32 (w % 2 ^ nbits)) :: s.port }

end Sys2Proof.Machine
end

