-- ==== Sys2Proof/Machine/Assembler.lean ====
section
/-! DEFINITION. The assembler of 30_encoding.md R95 and R96: lines as syntax trees and their words, then the reading of
a line's text. The lexical conventions that R95 does not spell out are the model's (DESIGN CHOICE, log 17). -/

namespace Sys2Proof.Asm

/-- A level as a line writes it: `#n`, or a decimal fraction `num / den` (R95). -/
inductive Level
  | raw (n : Int)
  | fraction (num : Int) (den : Nat)
  deriving DecidableEq, Repr

/-- `q(v)`: `n AND 0xFFFF`, or `floor(v × 256 + 1/2) AND 0xFFFF` (R95). -/
def quantise : Level → BitVec 16
  | .raw n => BitVec.ofInt 16 n
  | .fraction num den => BitVec.ofInt 16 ((num * 512 + den) / (2 * (den : Int)))

/-- ON, OFF, KEEP (R95). -/
inductive Tri
  | on
  | off
  | keep
  deriving DecidableEq, Repr

/-- `tri(·)` (R86, R95). -/
def Tri.code : Tri → BitVec 2
  | .on => 0b11#2
  | .off => 0b10#2
  | .keep => 0b00#2

/-- A line: the nine core lines of R95 and the five pseudo-instructions of R96 (`setbrt v` without T is the core line). -/
inductive Line
  | construct (a : Byte) (v : Level)
  | clear
  | setbrt (v : Level)
  | setbrtTransmit (v : Level)
  | setdec (l r : Tri)
  | setpix (x y : Byte) (s : Bool)
  | setchr (xo c : Byte)
  | setpair (k : BitVec 4) (c0 c1 : Byte)
  | showFrame
  /-- `CONSTRUCT a`: the source's default level 0.1. -/
  | constructDefault (a : Byte)
  /-- `SETDEC L=l`. -/
  | setdecLeft (l : Tri)
  /-- `SETDEC R=r`. -/
  | setdecRight (r : Tri)
  /-- `SETPAIR "ab"`: a string, its length saturated at 15, a missing character 0 (R89). -/
  | setpairText (text : List Byte)
  deriving DecidableEq, Repr

/-- The command a line stands for (R95, R96). -/
def Line.expand : Line → Instr
  | .construct a v => .construct a (quantise v)
  | .clear => .clear
  | .setbrt v => .setbrt false (quantise v)
  | .setbrtTransmit v => .setbrt true (quantise v)
  | .setdec l r => .setdec l.code r.code
  | .setpix x y s => .setpix s x y
  | .setchr xo c => .setchr xo c
  | .setpair k c0 c1 => .setpair k c0 c1
  | .showFrame => .showFrame
  | .constructDefault a => .construct a (quantise (.fraction 1 10))
  | .setdecLeft l => .setdec l.code Tri.keep.code
  | .setdecRight r => .setdec Tri.keep.code r.code
  | .setpairText text =>
    .setpair (BitVec.ofNat 4 (min text.length 15)) (text.getD 0 0#8) (text.getD 1 0#8)

/-- The command word of a line. -/
def Line.word (l : Line) : Word := encode l.expand

/-! ### Reading a line -/

/-- The pieces of a line's text. -/
inductive Token
  /-- A name or a number. -/
  | atom (cs : List Char)
  /-- A character operand, written in apostrophes. -/
  | chr (c : Char)
  /-- A text, written in double quotes. -/
  | text (cs : List Char)
  | comma
  | equals
  | hash
  | minus
  deriving DecidableEq, Repr

/-- Where the reader stands: between or inside atoms, after an opening apostrophe, before a closing one, inside a text. -/
inductive Lexing
  | plain (acc : List Char)
  | opened
  | closing (c : Char)
  | quoted (acc : List Char)

/-- The atom read so far, if any. -/
def Lexing.flush (acc : List Char) (rest : List Token) : List Token :=
  if acc.isEmpty then rest else .atom acc.reverse :: rest

def apostrophe : Char := Char.ofNat 39
def doubleQuote : Char := Char.ofNat 34
def tab : Char := Char.ofNat 9

/-- A line's tokens. `;` outside apostrophes and quotes starts a comment (R95). -/
def lex : List Char → Lexing → Option (List Token)
  | [], .plain acc => some (Lexing.flush acc [])
  | [], .opened => none
  | [], .closing _ => none
  | [], .quoted _ => none
  | c :: cs, .plain acc =>
    if c = ';' then some (Lexing.flush acc [])
    else if c = ' ' ∨ c = tab then (lex cs (.plain [])).map (Lexing.flush acc)
    else if c = ',' then (lex cs (.plain [])).map fun ts => Lexing.flush acc (.comma :: ts)
    else if c = '=' then (lex cs (.plain [])).map fun ts => Lexing.flush acc (.equals :: ts)
    else if c = '#' then (lex cs (.plain [])).map fun ts => Lexing.flush acc (.hash :: ts)
    else if c = '-' then (lex cs (.plain [])).map fun ts => Lexing.flush acc (.minus :: ts)
    else if c = apostrophe then (lex cs .opened).map (Lexing.flush acc)
    else if c = doubleQuote then (lex cs (.quoted [])).map (Lexing.flush acc)
    else lex cs (.plain (c :: acc))
  | c :: cs, .opened => lex cs (.closing c)
  | c :: cs, .closing d => if c = apostrophe then (lex cs (.plain [])).map (.chr d :: ·) else none
  | c :: cs, .quoted acc =>
    if c = doubleQuote then (lex cs (.plain [])).map (.text acc.reverse :: ·) else lex cs (.quoted (c :: acc))

/-- The value of a digit, up to base 16. -/
def digit (c : Char) : Option Nat :=
  if 48 ≤ c.toNat ∧ c.toNat ≤ 57 then some (c.toNat - 48)
  else if 65 ≤ c.toNat ∧ c.toNat ≤ 70 then some (c.toNat - 55)
  else if 97 ≤ c.toNat ∧ c.toNat ≤ 102 then some (c.toNat - 87)
  else none

def digitsFrom (base : Nat) : Nat → List Char → Option Nat
  | v, [] => some v
  | v, c :: cs =>
    match digit c with
    | some d => if d < base then digitsFrom base (v * base + d) cs else none
    | none => none

/-- One or more digits of a base. -/
def digits (base : Nat) (cs : List Char) : Option Nat :=
  if cs.isEmpty then none else digitsFrom base 0 cs

/-- A number in the notation of R10: `0x`, `0b`, or decimal. -/
def number (cs : List Char) : Option Nat :=
  match cs with
  | '0' :: 'x' :: ds => digits 16 ds
  | '0' :: 'b' :: ds => digits 2 ds
  | ds => digits 10 ds

/-- A number in the range of an `n`-bit field (R95). -/
def numberOperand (n : Nat) (ts : List Token) : Option (BitVec n) :=
  match ts with
  | [.atom cs] => (number cs).bind fun v => if v < 2 ^ n then some (BitVec.ofNat n v) else none
  | _ => none

/-- A character as its 8-bit code (R88). R95 gives a character its ASCII code and says nothing of one that has none: from
128 to 255 its code point is taken, and above 255 it has no code, so its line is rejected (DESIGN CHOICE, log 17). -/
def charCode (c : Char) : Option Byte :=
  if c.toNat < 256 then some (BitVec.ofNat 8 c.toNat) else none

/-- A character operand: a number, or a character in apostrophes (R95). -/
def charOperand (ts : List Token) : Option Byte :=
  match ts with
  | [.chr c] => charCode c
  | _ => numberOperand 8 ts

/-- A decimal fraction: digits, a point, digits. -/
def fraction (negative : Bool) (cs : List Char) : Option Level :=
  match cs.dropWhile (· ≠ '.') with
  | _ :: frac =>
    match digits 10 (cs.takeWhile (· ≠ '.')), digits 10 (cs.takeWhile (· ≠ '.') ++ frac) with
    | some _, some v =>
      if frac.isEmpty then none
      else some (.fraction (if negative then -(v : Int) else v) (10 ^ frac.length))
    | _, _ => none
  | [] => none

/-- A level: `#n`, the signed numerator, or a decimal fraction (R95). -/
def levelOperand (ts : List Token) : Option Level :=
  match ts with
  | [.hash, .atom cs] => (number cs).map fun v => .raw v
  | [.hash, .minus, .atom cs] => (number cs).map fun v => .raw (-(v : Int))
  | [.atom cs] => fraction false cs
  | [.minus, .atom cs] => fraction true cs
  | _ => none

/-- ON, OFF, KEEP. -/
def triOperand (ts : List Token) : Option Tri :=
  match ts with
  | [.atom ['O', 'N']] => some .on
  | [.atom ['O', 'F', 'F']] => some .off
  | [.atom ['K', 'E', 'E', 'P']] => some .keep
  | _ => none

/-- The operands of a line: the tokens between commas. -/
def splitCommas : List Token → List (List Token)
  | [] => [[]]
  | .comma :: ts => [] :: splitCommas ts
  | t :: ts =>
    match splitCommas ts with
    | o :: os => (t :: o) :: os
    | [] => [[t]]

/-- A command line by its mnemonic and operands (R95, R96). -/
def readLine (mnemonic : List Char) (ops : List (List Token)) : Option Line :=
  if mnemonic = ['C', 'O', 'N', 'S', 'T', 'R', 'U', 'C', 'T'] then
    match ops with
    | [a] => (numberOperand 8 a).map .constructDefault
    | [a, v] => (numberOperand 8 a).bind fun a => (levelOperand v).map fun v => .construct a v
    | _ => none
  else if mnemonic = ['C', 'L', 'E', 'A', 'R'] then
    if ops = [[]] then some .clear else none
  else if mnemonic = ['S', 'E', 'T', 'B', 'R', 'T'] then
    match ops with
    | [v] => (levelOperand v).map .setbrt
    | [v, [.atom ['T']]] => (levelOperand v).map .setbrtTransmit
    | _ => none
  else if mnemonic = ['S', 'E', 'T', 'D', 'E', 'C'] then
    match ops with
    | [.atom ['L'] :: .equals :: l] => (triOperand l).map .setdecLeft
    | [.atom ['R'] :: .equals :: r] => (triOperand r).map .setdecRight
    | [l, r] => (triOperand l).bind fun l => (triOperand r).map fun r => .setdec l r
    | _ => none
  else if mnemonic = ['S', 'E', 'T', 'P', 'I', 'X'] then
    match ops with
    | [x, y, s] =>
      (numberOperand 8 x).bind fun x => (numberOperand 8 y).bind fun y =>
        (numberOperand 1 s).map fun s => .setpix x y (s = 1#1)
    | _ => none
  else if mnemonic = ['S', 'E', 'T', 'C', 'H', 'R'] then
    match ops with
    | [xo, c] => (numberOperand 8 xo).bind fun xo => (charOperand c).map fun c => .setchr xo c
    | _ => none
  else if mnemonic = ['S', 'E', 'T', 'P', 'A', 'I', 'R'] then
    match ops with
    -- Every character of the text needs a code, the third and later ones too (DESIGN CHOICE, log 17).
    | [[.text cs]] => (cs.mapM charCode).map .setpairText
    | [k, c0, c1] =>
      (numberOperand 4 k).bind fun k => (charOperand c0).bind fun c0 =>
        (charOperand c1).map fun c1 => .setpair k c0 c1
    | _ => none
  else if mnemonic = ['S', 'H', 'O', 'W'] then
    if ops = [[]] then some .showFrame else none
  else none

/-- What a line of text is: nothing (blank, or a comment alone), a command line, or no line of the language. -/
inductive Reading
  | empty
  | line (l : Line)
  | bad
  deriving DecidableEq, Repr

/-- Read one line of assembly text (R95, R96). -/
def read (cs : List Char) : Reading :=
  match lex cs (.plain []) with
  | none => .bad
  | some [] => .empty
  | some (.atom m :: ts) =>
    match readLine m (splitCommas ts) with
    | some l => .line l
    | none => .bad
  | some _ => .bad

end Sys2Proof.Asm
end

