-- ==== Sys2Proof/Safety.lean ====
section
/-! DEFINITION. The terms claims are stated in: legal addresses and bus writes, the invariant of the controller, the
writes of a frame, the next answers of the bus, and the tables of the spec that statements compare the machine with. -/

namespace Sys2Proof.Claims

open Sys2Proof.Machine

/-! ### Bits of the buffers -/

/-- Everything but the two buffers is as before, and the command returned `st`. -/
def OnlyBuffersChange (s t : State) (st : Status) : Prop :=
  t = { s with lbuf := t.lbuf, rbuf := t.rbuf, responses := s.responses ++ [st] }

/-- The buffer bits that hold no pixel are as before: LBUF[5..7], and bits 5 to 7 of every RBUF byte (10_state.md R23). -/
def SameOutsidePixels (s t : State) : Prop :=
  (∀ i b : Fin 8, 5 ≤ i.val → t.lbuf[i.val].getLsbD b.val = s.lbuf[i.val].getLsbD b.val) ∧
  (∀ i b : Fin 8, 5 ≤ b.val → t.rbuf[i.val].getLsbD b.val = s.rbuf[i.val].getLsbD b.val)

/-- The 23 bits of each buffer that are neither a pixel nor a flag are 0 (10_state.md R25). -/
def SpareBitsZero (s : State) : Prop :=
  (∀ i b : Fin 8, 5 ≤ i.val → ¬ (i.val = 7 ∧ b.val = 6) → s.lbuf[i.val].getLsbD b.val = false) ∧
  (∀ i b : Fin 8, 5 ≤ b.val → ¬ (i.val = 6 ∧ b.val = s.cfg.rdpBit.index) → s.rbuf[i.val].getLsbD b.val = false)

/-! ### The bus -/

/-- One of the three legal device addresses (20_memory.md R53). -/
def LegalAddr (a : BitVec 7) : Prop := a = 0x61#7 ∨ a = 0x62#7 ∨ a = 0x63#7

/-- A register number and payload of the device register map (20_memory.md R52). -/
def InRegisterMap (reg : Byte) (bytes : List Byte) : Prop :=
  (reg = 0x0E#8 ∧ bytes.length = 8) ∨ (reg = 0x01#8 ∧ bytes.length = 8) ∨
  (reg = 0x00#8 ∧ bytes = [0x18#8]) ∨ (reg = 0x0D#8 ∧ bytes = [0x0E#8]) ∨
  (reg = 0x19#8 ∧ ∃ v : Byte, v.toNat ≤ 127 ∧ bytes = [v]) ∨ (reg = 0x0C#8 ∧ bytes = [0x01#8])

/-- The six writes of a frame, all successful, in the order of 44_show.md R181. -/
def frameWrites (a : BitVec 7) (f : Frame) : List BusWrite :=
  [⟨a, 0x0E#8, f.left.toList, .success⟩, ⟨a, 0x01#8, f.right.toList, .success⟩,
   ⟨a, 0x00#8, [0x18#8], .success⟩, ⟨a, 0x0D#8, [0x0E#8], .success⟩,
   ⟨a, 0x19#8, [f.bright.setWidth 8], .success⟩, ⟨a, 0x0C#8, [0x01#8], .success⟩]

/-- The writes of a frame up to step `k`, where step `k` failed (44_show.md R182). -/
def failedFrameWrites (a : BitVec 7) (f : Frame) (k : Nat) : List BusWrite :=
  (frameWrites a f).take k ++
    ((frameWrites a f)[k]?.toList.map fun e => { e with outcome := .failure })

/-- The transport's answer to the `k`-th write from here: the script's, and past its end a free value (R58, log 6). -/
def answerAt (s : State) (k : Nat) : Option BusOutcome :=
  if h : k < s.busScript.length then s.busScript[k]
  else Config.busAnswer (s.busDraws + (k - s.busScript.length))

/-- The state once `n` answers have been taken from the transport, nothing else changed. -/
def afterAnswers (n : Nat) (s : State) : State :=
  { s with busScript := s.busScript.drop n, busDraws := s.busDraws + (n - s.busScript.length) }

/-- A command that issues no bus write: all but SHOW and SETBRT with transmit (20_memory.md R60, R63). -/
def quiet : Instr → Bool
  | .construct _ _ => true
  | .clear => true
  | .setbrt t _ => !t
  | .setdec _ _ => true
  | .setpix _ _ _ => true
  | .setchr _ _ => true
  | .setpair _ _ _ => true
  | .showFrame => false

/-- How many bus writes a command issues when each succeeds (20_memory.md R56). -/
def writesOf : Instr → Nat
  | .construct _ _ => 0
  | .clear => 0
  | .setbrt t _ => if t then 1 else 0
  | .setdec _ _ => 0
  | .setpix _ _ _ => 0
  | .setchr _ _ => 0
  | .setpair _ _ _ => 0
  | .showFrame => 6

/-! ### Brightness -/

/-- The integer formula of 41_config_ops.md R121, on the numerator of the level. -/
def brightFormula (lvl : BitVec 16) : Nat :=
  (max 0 (min 127 ((127 * lvl.toInt + 128) / 256))).toNat

/-! ### Statuses -/

/-- A character code that has a glyph (40_font_lookup.md R110). -/
def printable (c : BitVec 8) : Bool := 32 ≤ c.toNat && c.toNat ≤ 126

/-- The "Raised by" column of 60_exceptions.md R200, turned round: the statuses each command can end with. -/
def statusesOf : Instr → List Status
  | .construct _ _ => [.ok, .errAddress]
  | .clear => [.ok, .errUnconfigured]
  | .setbrt t _ => if t then [.ok, .errTransmit, .errUnconfigured] else [.ok, .errUnconfigured]
  | .setdec _ _ => [.ok, .errUnconfigured]
  | .setpix _ _ _ => [.ok, .errRange, .errUnconfigured]
  | .setchr _ _ => [.ok, .errRange, .errGlyph, .errUnconfigured]
  | .setpair _ _ _ => [.ok, .errGlyph, .errLength, .errUnconfigured]
  | .showFrame => [.ok, .errTransmit, .errUnconfigured]

/-- Ranks 3 to 5 of 60_exceptions.md R209: the first operand check that fails. -/
def operandError : Instr → Option Status
  | .construct addr _ => if addr = 0x61#8 ∨ addr = 0x62#8 ∨ addr = 0x63#8 then none else some .errAddress
  | .clear => none
  | .setbrt _ _ => none
  | .setdec _ _ => none
  | .setpix _ x y => if 9 < x.toNat ∨ 7 < y.toNat then some .errRange else none
  | .setchr xo ch =>
    if !printable ch then some .errGlyph else if 5 < xo.toNat then some .errRange else none
  | .setpair len c0 c1 =>
    if len.toNat ≠ 2 then some .errLength
    else if !printable c0 then some .errGlyph
    else if !printable c1 then some .errGlyph
    else none
  | .showFrame => none

/-- Ranks 2 to 5 of R209: CONFIGURED before the operands, except for CONSTRUCT. -/
def firstError (i : Instr) (s : State) : Option Status :=
  if s.configured = false ∧ i.mnemonic ≠ .construct then some .errUnconfigured else operandError i

/-- The commands that may write a buffer byte (10_state.md R20). -/
def writesBuffers : Instr → Bool
  | .construct _ _ => true
  | .clear => true
  | .setbrt _ _ => false
  | .setdec _ _ => true
  | .setpix _ _ _ => true
  | .setchr _ _ => true
  | .setpair _ _ _ => true
  | .showFrame => false

/-- A word that a row of the opcode map R82 spells, the tri-state codes of SETDEC included (R86). -/
def Spells (w : Word) (m : Mnemonic) : Prop :=
  w &&& m.maskWord = m.matchWord ∧
  (m = .setdec → w.extractLsb' 2 2 ≠ 0b01#2 ∧ w.extractLsb' 0 2 ≠ 0b01#2)

/-! ### Runs -/

/-- A list of commands, each run in the state the one before left (70_reset_and_hazards.md R251). -/
def runCommands : List Instr → State → Result
  | [], s => .next s
  | i :: rest, s =>
    match exec i s with
    | .next t => runCommands rest t
    | .fault r => .fault r
    | .refused r => .refused r

/-! ### The invariant -/

/-- What holds between commands: ADDR is legal and the spare bits are zero once configured (10_state.md R25, R28), SEQ is
not live (R30), TRACE holds only writes of the register map to legal addresses (20_memory.md R52, R53), and a frame in
SHOWN is what the last six writes of TRACE carried (10_state.md R34). -/
structure ControllerInv (s : State) : Prop where
  addrLegal  : s.configured = true → LegalAddr s.addr
  spareZero  : s.configured = true → SpareBitsZero s
  seqIdle    : s.seq = none
  traceLegal : ∀ e ∈ s.trace, LegalAddr e.addr ∧ InRegisterMap e.reg e.bytes
  shownSent  : ∀ f, s.shown = some f → ∃ pre a, s.trace = pre ++ frameWrites a f

/-- What the host can see of a state through the command port and the bus's answers: nothing of the buffers, the
brightness, the address or the font (30_encoding.md R93, 70_reset_and_hazards.md R252). -/
structure SameForHost (s t : State) : Prop where
  configured : s.configured = t.configured
  responses  : s.responses = t.responses
  port       : s.port = t.port
  busScript  : s.busScript = t.busScript
  busDraws   : s.busDraws = t.busDraws

end Sys2Proof.Claims
end

