-- ==== Sys2Proof/Certificates/Slice0/Obligations.lean ====
section
/-! DEFINITION. The statements for the provers. Each docstring names the rule of the spec it formalises. -/

open Sys2Proof Sys2Proof.Machine Sys2Proof.Claims

/-! ### Encoding -/

/-- The words that the examples of the spec write out decode to the commands they stand for (30_encoding.md R81 to R83,
95_test_vectors.md part 2). -/
def Obligations.SpecWordsDecodeAsWritten : Prop :=
  decode 0x1061001A#32 = .ok (.construct 0x61#8 0x001A#16) ∧
  decode 0x20000000#32 = .ok .clear ∧
  decode 0x30010080#32 = .ok (.setbrt true 0x0080#16) ∧
  decode 0x4000000B#32 = .ok (.setdec 0b10#2 0b11#2) ∧
  decode 0x50010702#32 = .ok (.setpix true 7#8 2#8) ∧
  decode 0x60000541#32 = .ok (.setchr 5#8 65#8) ∧
  decode 0x70023132#32 = .ok (.setpair 2#4 0x31#8 0x32#8) ∧
  decode 0x80000000#32 = .ok .showFrame ∧
  decode 0x00000000#32 = .error .reservedOpcode ∧
  decode 0x90000000#32 = .error .reservedOpcode ∧
  decode 0x20000001#32 = .error .reservedBit ∧
  decode 0x40000004#32 = .error .reservedTriState ∧
  decode 0x40000001#32 = .error .reservedTriState

/-- Decoding the word of a well-formed command gives that command back, for every operand of every command
(30_encoding.md R81, R83). -/
def Obligations.DecodeUndoesEncode : Prop :=
  ∀ i : Instr, i.wellFormed = true → decode (encode i) = .ok i

/-- Each word has at most one meaning: a word that decodes is the encoding of a well-formed command (R81, R83). -/
def Obligations.EncodeUndoesDecode : Prop :=
  ∀ (w : Word) (i : Instr), decode w = .ok i → i.wellFormed = true ∧ encode i = w

/-- R82: the decoder finds a row's command exactly in the words its match and mask (and, for SETDEC, R86) admit, and the
opcode column is `W[31:28]`. -/
def Obligations.DecodeFollowsMatchAndMask : Prop :=
  (∀ (w : Word) (m : Mnemonic), (∃ i, decode w = .ok i ∧ i.mnemonic = m) ↔ Spells w m) ∧
  (∀ (w : Word) (i : Instr), decode w = .ok i → w.extractLsb' 28 4 = i.opcode)

/-- R206: a word is illegal exactly when no row spells it, and then the step changes no state and issues no bus write:
it takes the word from the port and returns ERR_ILLEGAL (the spec's own decision D4). -/
def Obligations.IllegalWordOnlyReturnsItsStatus : Prop :=
  (∀ w : Word, (∃ e, decode w = .error e) ↔ ∀ m, ¬ Spells w m) ∧
  (∀ (s : State) (w : Word) (e : DecodeError) (rest : List HostInput),
    s.port = .word w :: rest → decode w = .error e →
    step s = .next { s with port := rest, responses := s.responses ++ [.errIllegal] })

/-- The assembler's lines stand for the words of 30_encoding.md R95, and its pseudo-instructions for their expansions
(R96). `q(v)` is `n AND 0xFFFF` for `#n` and `floor(v × 256 + 1/2) AND 0xFFFF`, in exact arithmetic, for a decimal
fraction; ON, OFF and KEEP have the codes 0b11, 0b10 and 0b00. A text's length saturates at 15 and a missing character
is 0 (R89). -/
def Obligations.AssemblyLinesGiveTheTabulatedWords : Prop :=
  (∀ n : Int, ((Asm.quantise (.raw n)).toNat : Int) = n % 0x10000) ∧
  (∀ (num : Int) (den : Nat), 0 < den →
    ((Asm.quantise (.fraction num den)).toNat : Int) = ⌊(num : ℚ) / (den : ℚ) * 256 + 1 / 2⌋ % 0x10000) ∧
  Asm.Tri.on.code = 0b11#2 ∧ Asm.Tri.off.code = 0b10#2 ∧ Asm.Tri.keep.code = 0b00#2 ∧
  (∀ a v, (Asm.Line.construct a v).word = 0x10000000#32 ||| (a.setWidth 32 <<< 16) ||| (Asm.quantise v).setWidth 32) ∧
  (∀ v, (Asm.Line.setbrt v).word = 0x30000000#32 ||| (Asm.quantise v).setWidth 32) ∧
  (∀ v, (Asm.Line.setbrtTransmit v).word = 0x30010000#32 ||| (Asm.quantise v).setWidth 32) ∧
  (∀ l r : Asm.Tri, (Asm.Line.setdec l r).word =
    0x40000000#32 ||| (l.code.setWidth 32 <<< 2) ||| r.code.setWidth 32) ∧
  (∀ x y s, (Asm.Line.setpix x y s).word =
    0x50000000#32 ||| ((BitVec.ofBool s).setWidth 32 <<< 16) ||| (x.setWidth 32 <<< 8) ||| y.setWidth 32) ∧
  (∀ xo c, (Asm.Line.setchr xo c).word = 0x60000000#32 ||| (xo.setWidth 32 <<< 8) ||| c.setWidth 32) ∧
  (∀ k c0 c1, (Asm.Line.setpair k c0 c1).word =
    0x70000000#32 ||| (k.setWidth 32 <<< 16) ||| (c0.setWidth 32 <<< 8) ||| c1.setWidth 32) ∧
  Asm.Line.clear.word = 0x20000000#32 ∧ Asm.Line.showFrame.word = 0x80000000#32 ∧
  (∀ a, (Asm.Line.constructDefault a).word = 0x1000001A#32 ||| (a.setWidth 32 <<< 16)) ∧
  (∀ l : Asm.Tri, (Asm.Line.setdecLeft l).word = (Asm.Line.setdec l .keep).word) ∧
  (∀ r : Asm.Tri, (Asm.Line.setdecRight r).word = (Asm.Line.setdec .keep r).word) ∧
  (∀ text, (Asm.Line.setpairText text).word =
    (Asm.Line.setpair (BitVec.ofNat 4 (min text.length 15)) (text.getD 0 0#8) (text.getD 1 0#8)).word)

/-! ### The step -/

/-- A step runs the decoded command: with a word that decodes to `i` at the head of the port, the step is `exec i` in
the state with that word taken; `withFetchWord` places exactly such a word; a reset at the head is `takeReset`, whose
effect ResetLeavesTheControllerUnconfigured states;
with an empty port the controller waits unchanged (20_memory.md R57, R60, 70_reset_and_hazards.md R252; the waiting step
is the model's choice, log 8). -/
def Obligations.StepRunsTheDecodedCommand : Prop :=
  (∀ (s : State) (w : Word) (i : Instr) (rest : List HostInput),
    s.port = .word w :: rest → decode w = .ok i → step s = exec i { s with port := rest }) ∧
  (∀ (s : State) (i : Instr), i.wellFormed = true →
    step (s.withFetchWord 32 (encode i).toNat) = exec i s) ∧
  (∀ (s : State) (rest : List HostInput), s.port = .reset :: rest → step s = takeReset { s with port := rest }) ∧
  (∀ s : State, s.port = [] → step s = .next s)

/-! ### Reset -/

/-- Hardware reset leaves the controller unconfigured, with empty TRACE, no SHOWN frame and no sequencer index, issues no
bus write and returns no status (70_reset_and_hazards.md section 1, 10_state.md section 5). The values of ADDR, BRIGHT,
LBUF and RBUF are free and not stated. That the statuses already returned and the parameters stay is the model's choice
(log 9, log 1). -/
def Obligations.ResetLeavesTheControllerUnconfigured : Prop :=
  (State.reset.configured = false ∧ State.reset.trace = [] ∧ State.reset.shown = none ∧
    State.reset.seq = none ∧ State.reset.responses = []) ∧
  (∀ (s : State) (rest : List HostInput), s.port = .reset :: rest →
    ∃ t, step s = .next t ∧ t.configured = false ∧ t.trace = [] ∧ t.shown = none ∧ t.seq = none ∧
      t.responses = s.responses ∧ t.cfg = s.cfg ∧ t.port = rest ∧
      t.busScript = s.busScript ∧ t.busDraws = s.busDraws)

/-! ### The configuration commands -/

/-- R120: CONSTRUCT on every address and level, in every state, configured or not. An illegal address changes nothing; a
legal one sets ADDR, BRIGHT, both buffers and CONFIGURED and nothing else. It alone does not test CONFIGURED. That a
failing CONSTRUCT keeps a configured controller as it was is the spec's own decision D10. -/
def Obligations.ConstructConfiguresOrChangesNothing : Prop :=
  (∀ (addr : BitVec 8) (lvl : BitVec 16), encode (.construct addr lvl) =
    0x10000000#32 ||| (addr.setWidth 32 <<< 16) ||| lvl.setWidth 32) ∧
  (∀ (addr : BitVec 8) (lvl : BitVec 16) (s : State),
    exec (.construct addr lvl) s =
      if addr ≠ 0x61#8 ∧ addr ≠ 0x62#8 ∧ addr ≠ 0x63#8 then
        .next { s with responses := s.responses ++ [.errAddress] }
      else
        .next { s with
          addr := addr.setWidth 7
          bright := BitVec.ofNat 7 (brightFormula lvl)
          lbuf := Vector.replicate 8 0#8
          rbuf := Vector.replicate 8 0#8
          configured := true
          responses := s.responses ++ [.ok] }) ∧
  (∀ (i : Instr) (s : State), (∀ addr lvl, i ≠ .construct addr lvl) → s.configured = false →
    exec i s = .next { s with responses := s.responses ++ [.errUnconfigured] })

/-- R121: `round` is to nearest with the exact half as ROUND_TIE says, BrightOf is its clamp to [0,127], and for each of
the 65536 encoded levels it is the integer formula whichever way ties go, with the formula's bounds and the rule's
table of values (marked derived there; ties to even are the spec's own decision D6). -/
def Obligations.BrightnessIsTheClampedRounding : Prop :=
  (∀ (tie : RoundTie) (n : Int) (d : Nat), 0 < d →
    2 * (n - roundRatio tie n d * d) ≤ d ∧ -(d : Int) ≤ 2 * (n - roundRatio tie n d * d) ∧
    (tie = .toEven → 2 * (n - roundRatio tie n d * d) = d ∨ 2 * (n - roundRatio tie n d * d) = -(d : Int) →
      roundRatio tie n d % 2 = 0) ∧
    (tie = .upward → 2 * (n - roundRatio tie n d * d) ≠ d)) ∧
  (∀ (tie : RoundTie) (n : Int) (d : Nat),
    brightOfRatio tie n d = max 0 (min 127 (roundRatio tie (127 * n) d))) ∧
  (∀ (tie : RoundTie) (lvl : BitVec 16),
    ((brightOf tie lvl).toNat : Int) = brightOfRatio tie lvl.toInt 256 ∧
    (brightOf tie lvl).toNat = brightFormula lvl ∧
    -4161408 ≤ 127 * lvl.toInt + 128 ∧ 127 * lvl.toInt + 128 ≤ 4161537) ∧
  (∀ p ∈ ([(0x0000, 0), (0x0001, 0), (0x0002, 1), (0x001A, 13), (0x0040, 32), (0x007F, 63), (0x0080, 64), (0x00C0, 95),
      (0x00FE, 126), (0x00FF, 127), (0x0100, 127), (0x0101, 127), (0x0180, 127), (0x7FFF, 127), (0xFFFF, 0),
      (0xFF80, 0), (0x8000, 0)] : List (BitVec 16 × Nat)),
    ∀ tie, (brightOf tie p.1).toNat = p.2) ∧
  (∀ tie, brightOfRatio tie 1 10 = 13)

/-- R122: SETBRT on a configured controller stores the new brightness and, with transmit, issues exactly one write of
the new value to register 0x19; its outcome decides the status, and a failure rolls nothing back. Unconfigured, nothing
changes. SHOWN is unspecified after a transmit of either outcome (10_state.md R34). The kept value is the spec's own
decision D24. -/
def Obligations.SetBrightnessStoresAndTransmits : Prop :=
  (∀ (t : Bool) (lvl : BitVec 16), encode (.setbrt t lvl) =
    0x30000000#32 ||| ((BitVec.ofBool t).setWidth 32 <<< 16) ||| lvl.setWidth 32) ∧
  (∀ (t : Bool) (lvl : BitVec 16) (s : State), s.configured = false →
    exec (.setbrt t lvl) s = .next { s with responses := s.responses ++ [.errUnconfigured] }) ∧
  (∀ (lvl : BitVec 16) (s : State), s.configured = true →
    exec (.setbrt false lvl) s =
      .next { s with bright := BitVec.ofNat 7 (brightFormula lvl), responses := s.responses ++ [.ok] }) ∧
  (∀ (lvl : BitVec 16) (s : State) (o : BusOutcome), s.configured = true → answerAt s 0 = some o →
    exec (.setbrt true lvl) s =
      .next { afterAnswers 1 s with
        bright := BitVec.ofNat 7 (brightFormula lvl)
        trace := s.trace ++ [⟨s.addr, 0x19#8, [BitVec.ofNat 8 (brightFormula lvl)], o⟩]
        shown := none
        responses := s.responses ++ [if o = .success then .ok else .errTransmit] })

/-! ### The buffer commands -/

/-- R140: CLEAR zeroes all sixteen bytes, so every pixel and both decimal points, and touches nothing else; unconfigured it
changes nothing. -/
def Obligations.ClearZeroesBothBuffers : Prop :=
  encode .clear = 0x20000000#32 ∧
  (∀ s : State, s.configured = false →
    exec .clear s = .next { s with responses := s.responses ++ [.errUnconfigured] }) ∧
  (∀ s : State, s.configured = true → ∃ t, exec .clear s = .next t ∧ OnlyBuffersChange s t .ok ∧
    (∀ i : Fin 8, t.lbuf[i.val] = 0#8 ∧ t.rbuf[i.val] = 0#8) ∧
    (∀ x y, pix t x y = false) ∧ ldp t = false ∧ rdp t = false)

/-- R141: SETDEC writes bit 6 of LBUF[7] when `l` has a value and bit RDP_BIT of RBUF[6] when `r` has one; every other bit
of both buffers and every other element keeps its value; unconfigured it changes nothing. -/
def Obligations.SetDecimalWritesOnlyTheFlags : Prop :=
  (∀ l r : BitVec 2, encode (.setdec l r) =
    0x40000000#32 ||| (l.setWidth 32 <<< 2) ||| r.setWidth 32) ∧
  (∀ (l r : BitVec 2) (s : State), s.configured = false →
    exec (.setdec l r) s = .next { s with responses := s.responses ++ [.errUnconfigured] }) ∧
  (∀ (l r : BitVec 2) (s : State), s.configured = true →
    ∃ t, exec (.setdec l r) s = .next t ∧ OnlyBuffersChange s t .ok ∧
      (∀ i b : Fin 8, t.lbuf[i.val].getLsbD b.val =
        if i.val = 7 ∧ b.val = 6 ∧ l.getLsbD 1 = true then l.getLsbD 0 else s.lbuf[i.val].getLsbD b.val) ∧
      (∀ i b : Fin 8, t.rbuf[i.val].getLsbD b.val =
        if i.val = 6 ∧ b.val = s.cfg.rdpBit.index ∧ r.getLsbD 1 = true then r.getLsbD 0
        else s.rbuf[i.val].getLsbD b.val))

/-- R142: SETPIX out of range changes nothing; in range it writes exactly the bit PIX(x, y): byte x, bit y on the left,
byte y, bit x - 5 on the right; unconfigured it changes nothing. -/
def Obligations.SetPixelWritesOneBit : Prop :=
  (∀ (b : Bool) (x y : BitVec 8), encode (.setpix b x y) =
    0x50000000#32 ||| ((BitVec.ofBool b).setWidth 32 <<< 16) ||| (x.setWidth 32 <<< 8) ||| y.setWidth 32) ∧
  (∀ (b : Bool) (x y : BitVec 8) (s : State), s.configured = false →
    exec (.setpix b x y) s = .next { s with responses := s.responses ++ [.errUnconfigured] }) ∧
  (∀ (b : Bool) (x y : BitVec 8) (s : State), s.configured = true → (9 < x.toNat ∨ 7 < y.toNat) →
    exec (.setpix b x y) s = .next { s with responses := s.responses ++ [.errRange] }) ∧
  (∀ (b : Bool) (x y : BitVec 8) (s : State), s.configured = true → x.toNat ≤ 9 → y.toNat ≤ 7 →
    ∃ t, exec (.setpix b x y) s = .next t ∧ OnlyBuffersChange s t .ok ∧
      (∀ i k : Fin 8, t.lbuf[i.val].getLsbD k.val =
        if x.toNat ≤ 4 ∧ i.val = x.toNat ∧ k.val = y.toNat then b else s.lbuf[i.val].getLsbD k.val) ∧
      (∀ i k : Fin 8, t.rbuf[i.val].getLsbD k.val =
        if 5 ≤ x.toNat ∧ i.val = y.toNat ∧ k.val = x.toNat - 5 then b else s.rbuf[i.val].getLsbD k.val) ∧
      (∀ (x' : Fin 10) (y' : Fin 8), pix t x' y' =
        if x'.val = x.toNat ∧ y'.val = y.toNat then b else pix s x' y'))

/-- The laws of SETPIX (42_buffer_ops.md section 4): the last write to a pixel wins, repeating changes nothing further,
writes to different pixels commute, and set-then-clear leaves the pixel 0, which restores the buffers when the pixel was
unlit. -/
def Obligations.PixelWritesCommuteAndLastWins : Prop :=
  (∀ (b c : Bool) (x y : BitVec 8) (s t u : State), s.configured = true → x.toNat ≤ 9 → y.toNat ≤ 7 →
    exec (.setpix b x y) s = .next t → exec (.setpix c x y) t = .next u →
    exec (.setpix c x y) s = .next { u with responses := s.responses ++ [.ok] }) ∧
  (∀ (b c : Bool) (x y x' y' : BitVec 8) (s : State), s.configured = true →
    x.toNat ≤ 9 → y.toNat ≤ 7 → x'.toNat ≤ 9 → y'.toNat ≤ 7 → (x, y) ≠ (x', y') →
    ∃ t, runCommands [.setpix b x y, .setpix c x' y'] s = .next t ∧
      runCommands [.setpix c x' y', .setpix b x y] s = .next t) ∧
  (∀ (x y : BitVec 8) (s : State) (hx : x.toNat < 10) (hy : y.toNat < 8), s.configured = true →
    ∃ t, runCommands [.setpix true x y, .setpix false x y] s = .next t ∧
      pix t ⟨x.toNat, hx⟩ ⟨y.toNat, hy⟩ = false ∧
      (pix s ⟨x.toNat, hx⟩ ⟨y.toNat, hy⟩ = false → t.lbuf = s.lbuf ∧ t.rbuf = s.rbuf))

/-! ### The font ROM and the character commands -/

/-- R51, with the range check of R110: a lookup succeeds exactly on the codes 32 to 126 and gives the five ROM bytes from
(code - 32) × 5, all inside the ROM; no other code has a glyph, so none is substituted, wrapped or masked. -/
def Obligations.LookupReadsFiveRomBytes : Prop :=
  (∀ (font : FontRom) (c : Nat), lookup font c = none ↔ c < 32 ∨ 126 < c) ∧
  (∀ (font : FontRom) (c : Nat), 32 ≤ c → c ≤ 126 → ∃ g, lookup font c = some g ∧
    ∀ i : Fin 5, ∃ h : (c - 32) * 5 + i.val < 475, g[i.val] = font[(c - 32) * 5 + i.val])

/-- R114: no step writes the font ROM, so the lookup of a code gives the same answer for the life of the hardware, through
every command, reset and illegal word. -/
def Obligations.FontRomIsNeverWritten : Prop :=
  (∀ s t : State, step s = .next t → t.cfg.font = s.cfg.font) ∧
  (∀ (n : Nat) (s t : State) (c : Nat), Sys2Proof.core.run n s = .next t →
    lookup t.cfg.font c = lookup s.cfg.font c) ∧
  (∀ (s : State) (c : Nat), (lookup s.cfg.font c).isSome = true ↔ 32 ≤ c ∧ c ≤ 126)

/-- R160: SETCHR reports ERR_UNCONFIGURED, then ERR_GLYPH, then ERR_RANGE, each with nothing changed; otherwise it sets the
40 pixels of columns xo to xo + 4 to the glyph's bits, overwriting them, and changes nothing else. Row 7 of those
columns is cleared for a FONT that meets R112. Refusing a bad offset before any write is the spec's own decision D11. -/
def Obligations.SetCharacterWritesFortyPixels : Prop :=
  (∀ xo ch : BitVec 8, encode (.setchr xo ch) =
    0x60000000#32 ||| (xo.setWidth 32 <<< 8) ||| ch.setWidth 32) ∧
  (∀ (xo ch : BitVec 8) (s : State), s.configured = false →
    exec (.setchr xo ch) s = .next { s with responses := s.responses ++ [.errUnconfigured] }) ∧
  (∀ (xo ch : BitVec 8) (s : State), s.configured = true → (ch.toNat < 32 ∨ 126 < ch.toNat) →
    exec (.setchr xo ch) s = .next { s with responses := s.responses ++ [.errGlyph] }) ∧
  (∀ (xo ch : BitVec 8) (s : State), s.configured = true → 32 ≤ ch.toNat → ch.toNat ≤ 126 → 5 < xo.toNat →
    exec (.setchr xo ch) s = .next { s with responses := s.responses ++ [.errRange] }) ∧
  (∀ (xo ch : BitVec 8) (s : State), s.configured = true → 32 ≤ ch.toNat → ch.toNat ≤ 126 → xo.toNat ≤ 5 →
    ∃ g t, lookup s.cfg.font ch.toNat = some g ∧ exec (.setchr xo ch) s = .next t ∧ OnlyBuffersChange s t .ok ∧
      SameOutsidePixels s t ∧
      (∀ (x : Fin 10) (y : Fin 8), pix t x y =
        if h : xo.toNat ≤ x.val ∧ x.val ≤ xo.toNat + 4 then g[x.val - xo.toNat].getLsbD y.val else pix s x y) ∧
      (s.cfg.FontOk → ∀ x : Fin 10, xo.toNat ≤ x.val → x.val ≤ xo.toNat + 4 → pix t x 7 = false))

/-- The closed forms of SETCHR (43_character_ops.md R161, R162, marked derived there): at offset k the glyph's columns 0
to 4 - k go to LBUF[k..4] as whole bytes, and columns 5 - k to 4 to bits 0 to k - 1 of every RBUF byte, transposed; all
other bytes and bits are kept. -/
def Obligations.SetCharacterClosedForms : Prop :=
  ∀ (xo ch : BitVec 8) (g : Glyph) (s : State) (_ : xo.toNat ≤ 5), s.configured = true →
    lookup s.cfg.font ch.toNat = some g → ∃ t, exec (.setchr xo ch) s = .next t ∧
      (∀ i : Fin 8, t.lbuf[i.val] =
        if h : xo.toNat ≤ i.val ∧ i.val ≤ 4 then g[i.val - xo.toNat] else s.lbuf[i.val]) ∧
      (∀ y b : Fin 8, t.rbuf[y.val].getLsbD b.val =
        if h : b.val < xo.toNat then (g[5 - xo.toNat + b.val]'(by omega)).getLsbD y.val
        else s.rbuf[y.val].getLsbD b.val)

/-- R163: SETPAIR reports ERR_UNCONFIGURED, then ERR_LENGTH, then ERR_GLYPH for the first code, each with nothing changed;
with a bad second code the left matrix is already rewritten and the right one untouched; otherwise both glyphs are
written at offsets 0 and 5 and nothing else changes. The kept left matrix is the spec's own decision D12. -/
def Obligations.SetPairWritesBothGlyphs : Prop :=
  (∀ (len : BitVec 4) (c0 c1 : BitVec 8), encode (.setpair len c0 c1) =
    0x70000000#32 ||| (len.setWidth 32 <<< 16) ||| (c0.setWidth 32 <<< 8) ||| c1.setWidth 32) ∧
  (∀ (len : BitVec 4) (c0 c1 : BitVec 8) (s : State), s.configured = false →
    exec (.setpair len c0 c1) s = .next { s with responses := s.responses ++ [.errUnconfigured] }) ∧
  (∀ (len : BitVec 4) (c0 c1 : BitVec 8) (s : State), s.configured = true → len.toNat ≠ 2 →
    exec (.setpair len c0 c1) s = .next { s with responses := s.responses ++ [.errLength] }) ∧
  (∀ (c0 c1 : BitVec 8) (s : State), s.configured = true → (c0.toNat < 32 ∨ 126 < c0.toNat) →
    exec (.setpair 2#4 c0 c1) s = .next { s with responses := s.responses ++ [.errGlyph] }) ∧
  (∀ (c0 c1 : BitVec 8) (g0 : Glyph) (s : State), s.configured = true → lookup s.cfg.font c0.toNat = some g0 →
    (c1.toNat < 32 ∨ 126 < c1.toNat) →
    ∃ t, exec (.setpair 2#4 c0 c1) s = .next t ∧ OnlyBuffersChange s t .errGlyph ∧ t.rbuf = s.rbuf ∧
      (∀ i : Fin 8, t.lbuf[i.val] = if h : i.val ≤ 4 then g0[i.val] else s.lbuf[i.val])) ∧
  (∀ (c0 c1 : BitVec 8) (g0 g1 : Glyph) (s : State), s.configured = true →
    lookup s.cfg.font c0.toNat = some g0 → lookup s.cfg.font c1.toNat = some g1 →
    ∃ t, exec (.setpair 2#4 c0 c1) s = .next t ∧ OnlyBuffersChange s t .ok ∧
      (∀ i : Fin 8, t.lbuf[i.val] = if h : i.val ≤ 4 then g0[i.val] else s.lbuf[i.val]) ∧
      (∀ y b : Fin 8, t.rbuf[y.val].getLsbD b.val =
        if h : b.val ≤ 4 then g1[b.val].getLsbD y.val else s.rbuf[y.val].getLsbD b.val))

/-- SETPAIR is two SETCHR commands (43_character_ops.md R164, marked derived there): the same state, and the first
status that is not OK, or OK. -/
def Obligations.SetPairEqualsTwoSetCharacters : Prop :=
  ∀ (c0 c1 : BitVec 8) (s : State), ∃ st₁ t₁,
    exec (.setchr 0#8 c0) s = .next t₁ ∧ t₁.responses = s.responses ++ [st₁] ∧
    (st₁ ≠ .ok → exec (.setpair 2#4 c0 c1) s = .next t₁) ∧
    (st₁ = .ok → ∃ st₂ t₂, exec (.setchr 5#8 c1) t₁ = .next t₂ ∧ t₂.responses = t₁.responses ++ [st₂] ∧
      exec (.setpair 2#4 c0 c1) s = .next { t₂ with responses := s.responses ++ [st₂] })

/-- The decimal points are changed by SETDEC, CLEAR and CONSTRUCT only: pixel and character writes and SHOW leave both as
they are, though a right-hand row 6 shares the right flag's byte (10_state.md R24, marked derived there). -/
def Obligations.DecimalPointsSurviveOtherCommands : Prop :=
  ∀ (i : Instr) (s t : State), exec i s = .next t → ldp t ≠ ldp s ∨ rdp t ≠ rdp s →
    i.mnemonic = .setdec ∨ i.mnemonic = .clear ∨ i.mnemonic = .construct

/-! ### SHOW -/

/-- R180, R181, R182: SHOW on a configured controller issues the six writes of the frame in order to ADDR, each after the
success of the one before. When all succeed, the status is OK and SHOWN is the frame; when write k fails, writes 0 to k
are in TRACE, the last one failed, nothing after it, and the status is ERR_TRANSMIT. Buffers, BRIGHT and ADDR stay.
Unconfigured, nothing is issued. Stopping at the first failure is the spec's own decision D13. -/
def Obligations.ShowSendsSixWritesInOrder : Prop :=
  encode .showFrame = 0x80000000#32 ∧
  (∀ s : State, s.configured = false →
    exec .showFrame s = .next { s with responses := s.responses ++ [.errUnconfigured] }) ∧
  (∀ s : State, s.configured = true → (∀ k < 6, answerAt s k = some .success) →
    exec .showFrame s = .next { afterAnswers 6 s with
      trace := s.trace ++ frameWrites s.addr ⟨s.lbuf, s.rbuf, s.bright⟩
      shown := some ⟨s.lbuf, s.rbuf, s.bright⟩
      seq := none
      responses := s.responses ++ [.ok] }) ∧
  (∀ (s : State) (k : Nat), s.configured = true → k < 6 → (∀ j < k, answerAt s j = some .success) →
    answerAt s k = some .failure →
    exec .showFrame s = .next { afterAnswers (k + 1) s with
      trace := s.trace ++ failedFrameWrites s.addr ⟨s.lbuf, s.rbuf, s.bright⟩ k
      shown := none
      seq := none
      responses := s.responses ++ [.errTransmit] })

/-- A bus write whose answer never comes holds the controller: no next state and no status (70_reset_and_hazards.md R245).
That the stuck state is a fault, and that the fault carries SEQ as it stands (in SHOW the sequencer's step), is the
model's choice (log 7). -/
def Obligations.UnansweredWriteHoldsTheController : Prop :=
  (∀ (lvl : BitVec 16) (s : State), s.configured = true → answerAt s 0 = none →
    exec (.setbrt true lvl) s = .fault (.busNeverAnswers s.seq)) ∧
  (∀ (s : State) (k : Nat), s.configured = true → k < 6 → (∀ j < k, answerAt s j = some .success) →
    answerAt s k = none →
    exec .showFrame s = .fault (.busNeverAnswers
      ([ShowStep.matrixLeft, .matrixRight, .mode, .options, .brightness, .update][k]?)))

/-- Two SHOWs with no command between them send the same six payloads twice (44_show.md R184, marked derived there),
also when nothing has changed (R183). -/
def Obligations.RepeatedShowSendsTheSameFrameTwice : Prop :=
  ∀ s : State, s.configured = true → (∀ k < 12, answerAt s k = some .success) →
    ∃ t, runCommands [.showFrame, .showFrame] s = .next t ∧
      t.trace = s.trace ++ frameWrites s.addr ⟨s.lbuf, s.rbuf, s.bright⟩ ++
        frameWrites s.addr ⟨s.lbuf, s.rbuf, s.bright⟩ ∧
      t.lbuf = s.lbuf ∧ t.rbuf = s.rbuf ∧ t.bright = s.bright ∧ t.addr = s.addr ∧
      t.responses = s.responses ++ [.ok, .ok]

/-! ### Errors -/

/-- R207: every legal command but CONSTRUCT, presented while CONFIGURED is 0, changes no state, issues no bus write and
ends ERR_UNCONFIGURED (the spec's own decision D9). -/
def Obligations.UnconfiguredCommandsOnlyReturnTheirStatus : Prop :=
  ∀ (s : State) (w : Word) (i : Instr) (rest : List HostInput), s.configured = false →
    s.port = .word w :: rest → decode w = .ok i → i.mnemonic ≠ .construct →
    step s = .next { s with port := rest, responses := s.responses ++ [.errUnconfigured] }

/-- R209: a command reports the first condition of the table that applies. The illegal word comes before everything;
CONFIGURED before the operands; the operand checks in the table's order; then the bus writes in issue order. When none
applies the command ends OK. Ranks 1 and 2 are the spec's own decision D30. -/
def Obligations.StatusIsTheFirstConditionThatApplies : Prop :=
  (∀ (s : State) (w : Word) (rest : List HostInput), s.port = .word w :: rest → (∀ m, ¬ Spells w m) →
    ∃ t, step s = .next t ∧ t.responses = s.responses ++ [.errIllegal]) ∧
  (∀ (i : Instr) (s : State) (st : Status), firstError i s = some st →
    ∃ t, exec i s = .next t ∧ t.responses = s.responses ++ [st]) ∧
  (∀ (i : Instr) (s : State) (k : Nat), firstError i s = none → k < writesOf i →
    (∀ j < k, answerAt s j = some .success) → answerAt s k = some .failure →
    ∃ t, exec i s = .next t ∧ t.responses = s.responses ++ [.errTransmit]) ∧
  (∀ (i : Instr) (s : State), firstError i s = none → (∀ j < writesOf i, answerAt s j = some .success) →
    ∃ t, exec i s = .next t ∧ t.responses = s.responses ++ [.ok])

/-- R200: the eight statuses have the codes 0 to 7, and a command that ends returns exactly one status, one that the table
lets it raise. The numbers are the spec's own decision D8. -/
def Obligations.EveryCommandReturnsOneOfItsStatuses : Prop :=
  (Status.ok.code = 0#3 ∧ Status.errAddress.code = 1#3 ∧ Status.errRange.code = 2#3 ∧ Status.errGlyph.code = 3#3 ∧
    Status.errLength.code = 4#3 ∧ Status.errTransmit.code = 5#3 ∧ Status.errIllegal.code = 6#3 ∧
    Status.errUnconfigured.code = 7#3) ∧
  (∀ (i : Instr) (s t : State), exec i s = .next t →
    ∃ st, t.responses = s.responses ++ [st] ∧ st ∈ statusesOf i)

/-! ### Whole-machine rules -/

/-- Each element of the state is written only by the commands of 10_state.md's inventory table (section 1): the buffers,
BRIGHT, ADDR, CONFIGURED, and beside them SEQ, TRACE, SHOWN and the answers of the bus. CONFIGURED rises with the first
successful CONSTRUCT and no command lowers it; an unsuccessful command writes nothing of that table but SETPAIR's left
matrix and SETBRT's brightness (60_exceptions.md R210). -/
def Obligations.ElementsChangeOnlyByTheirWriters : Prop :=
  ∀ (i : Instr) (s t : State), exec i s = .next t →
    (t.lbuf ≠ s.lbuf ∨ t.rbuf ≠ s.rbuf → writesBuffers i = true) ∧
    (t.bright ≠ s.bright → i.mnemonic = .construct ∨ i.mnemonic = .setbrt) ∧
    (t.addr ≠ s.addr ∨ t.configured ≠ s.configured → i.mnemonic = .construct) ∧
    (s.configured = true → t.configured = true) ∧
    (t.seq ≠ s.seq → i = .showFrame) ∧
    (t.trace ≠ s.trace ∨ t.shown ≠ s.shown → quiet i = false) ∧
    (t.busScript ≠ s.busScript ∨ t.busDraws ≠ s.busDraws → quiet i = false) ∧
    t.cfg = s.cfg ∧ t.port = s.port ∧ t.resets = s.resets ∧
    (t.lbuf ≠ s.lbuf → t.responses ≠ s.responses ++ [.ok] → i.mnemonic = .setpair) ∧
    (t.rbuf ≠ s.rbuf → t.responses = s.responses ++ [.ok]) ∧
    (t.bright ≠ s.bright → t.responses ≠ s.responses ++ [.ok] → i.mnemonic = .setbrt) ∧
    (t.addr ≠ s.addr ∨ t.configured ≠ s.configured → t.responses = s.responses ++ [.ok])

/-- R123: BRIGHT changes only by CONSTRUCT and SETBRT; every other command leaves it alone. A SHOW whose writes succeed
sends the value current at the time of the SHOW, in exactly one write of the brightness register, and leaves it; in any
SHOW, a failed one too, a brightness write carries no other value, and when the first four writes succeed it is issued. -/
def Obligations.BrightnessIsRetainedAndResent : Prop :=
  (∀ (i : Instr) (s t : State), exec i s = .next t → t.bright ≠ s.bright →
    i.mnemonic = .construct ∨ i.mnemonic = .setbrt) ∧
  (∀ s : State, s.configured = true → (∀ k < 6, answerAt s k = some .success) →
    ∃ t, exec .showFrame s = .next t ∧ t.bright = s.bright ∧
      (t.trace.drop s.trace.length).filter (·.reg = 0x19#8) = [⟨s.addr, 0x19#8, [s.bright.setWidth 8], .success⟩]) ∧
  (∀ (s t : State) (o : BusOutcome), s.configured = true → (∀ k < 4, answerAt s k = some .success) →
    answerAt s 4 = some o → exec .showFrame s = .next t →
    ⟨s.addr, 0x19#8, [s.bright.setWidth 8], o⟩ ∈ t.trace.drop s.trace.length) ∧
  (∀ s t : State, exec .showFrame s = .next t → ∀ e ∈ t.trace.drop s.trace.length, e.reg = 0x19#8 →
    e.bytes = [s.bright.setWidth 8])

/-- Every bus write carries ADDR and a register number and payload of the device register map; only SHOW and SETBRT with
transmit issue any; every write but a command's last one succeeded; TRACE only grows (20_memory.md sections 1, 3, 4:
the address of R53, the map of R52, the order and reach of R60). -/
def Obligations.BusWritesGoToAddrAndKnownRegisters : Prop :=
  ∀ (i : Instr) (s t : State), exec i s = .next t → ∃ new, t.trace = s.trace ++ new ∧
    (∀ e ∈ new, e.addr = s.addr ∧ InRegisterMap e.reg e.bytes) ∧
    (new ≠ [] → quiet i = false) ∧ new.length ≤ writesOf i ∧
    (∀ e ∈ new.dropLast, e.outcome = .success)

/-- R63: any number of commands that issue no bus write runs to the end without one, whatever their operands; they are
invisible on the bus, and a following SHOW sends only their net effect on the state. -/
def Obligations.SettersAreInvisibleUntilShow : Prop :=
  ∀ (is : List Instr) (s : State), (∀ i ∈ is, quiet i = true) →
    ∃ t, runCommands is s = .next t ∧ t.trace = s.trace ∧ t.shown = s.shown ∧
      (∀ k, answerAt t k = answerAt s k) ∧
      (t.configured = true → (∀ k < 6, answerAt s k = some .success) →
        ∃ u, exec .showFrame t = .next u ∧
          u.trace = s.trace ++ frameWrites t.addr ⟨t.lbuf, t.rbuf, t.bright⟩)

/-- R33: no command reads TRACE. Nor does any read SHOWN or the statuses already returned, so the next command is executed
exactly as if a failed one had ended OK (60_exceptions.md R211, 10_state.md R31). -/
def Obligations.ObservationsAreNeverRead : Prop :=
  ∀ (i : Instr) (s t : State) (tr : List BusWrite) (sh : Option Frame) (rs : List Status), exec i s = .next t →
    ∃ u new st, exec i { s with trace := tr, shown := sh, responses := rs } = .next u ∧
      t.trace = s.trace ++ new ∧ u.trace = tr ++ new ∧
      t.responses = s.responses ++ [st] ∧ u.responses = rs ++ [st] ∧
      u = { t with trace := u.trace, shown := u.shown, responses := u.responses }

/-- The host learns nothing but statuses (30_encoding.md R93, 70_reset_and_hazards.md R252): two controllers that differ
only in buffers, brightness, address, font and other parameters return the same statuses along every run of words and
resets, given the same answers of the bus, and consume the same answers. -/
def Obligations.StatusesRevealNoBufferContents : Prop :=
  ∀ (n : Nat) (s t s' : State), SameForHost s t → Sys2Proof.core.run n s = .next s' →
    ∃ t', Sys2Proof.core.run n t = .next t' ∧ SameForHost s' t'

/-- A run of words ends (70_reset_and_hazards.md section 5): when every write is answered, each word presented is taken
and answered with exactly one status, in order, whatever the words are. -/
def Obligations.RunAnswersEveryWordOnce : Prop :=
  ∀ (ws : List Word) (s : State), s.port = ws.map .word → (∀ k, k < 6 * ws.length → answerAt s k ≠ none) →
    ∃ t sts, Sys2Proof.core.run ws.length s = .next t ∧ t.port = [] ∧
      t.responses = s.responses ++ sts ∧ sts.length = ws.length

/-! ### The invariant -/

/-- The invariant holds right after reset. -/
def Obligations.ControllerInvariantHoldsAtReset : Prop := ControllerInv State.reset

/-- From every state that meets the invariant, a step that goes on gives a state that meets it: a legal ADDR and zero
spare bits once configured, SEQ not live between commands, only mapped writes to legal addresses in TRACE, and SHOWN
backed by the last six writes of TRACE. -/
def Obligations.EveryStepKeepsTheControllerInvariant : Prop :=
  ∀ s t : State, ControllerInv s → step s = .next t → ControllerInv t
end

