-- ==== Sys2Proof/Laws/State.lean ====
section
/-! SUPPORT. One lemma per field of State for each shared update, so that no later proof unfolds an update. -/

namespace Sys2Proof.Machine

/-! ### Updates that are record updates -/

@[simp] theorem respond_configured (st : Status) (s : State) : (respond st s).configured = s.configured := rfl
@[simp] theorem respond_addr (st : Status) (s : State) : (respond st s).addr = s.addr := rfl
@[simp] theorem respond_bright (st : Status) (s : State) : (respond st s).bright = s.bright := rfl
@[simp] theorem respond_lbuf (st : Status) (s : State) : (respond st s).lbuf = s.lbuf := rfl
@[simp] theorem respond_rbuf (st : Status) (s : State) : (respond st s).rbuf = s.rbuf := rfl
@[simp] theorem respond_seq (st : Status) (s : State) : (respond st s).seq = s.seq := rfl
@[simp] theorem respond_trace (st : Status) (s : State) : (respond st s).trace = s.trace := rfl
@[simp] theorem respond_shown (st : Status) (s : State) : (respond st s).shown = s.shown := rfl
@[simp] theorem respond_responses (st : Status) (s : State) : (respond st s).responses = s.responses ++ [st] := rfl
@[simp] theorem respond_cfg (st : Status) (s : State) : (respond st s).cfg = s.cfg := rfl
@[simp] theorem respond_port (st : Status) (s : State) : (respond st s).port = s.port := rfl
@[simp] theorem respond_busScript (st : Status) (s : State) : (respond st s).busScript = s.busScript := rfl
@[simp] theorem respond_busDraws (st : Status) (s : State) : (respond st s).busDraws = s.busDraws := rfl
@[simp] theorem respond_resets (st : Status) (s : State) : (respond st s).resets = s.resets := rfl

@[simp] theorem clearBuffers_configured (s : State) : (clearBuffers s).configured = s.configured := rfl
@[simp] theorem clearBuffers_addr (s : State) : (clearBuffers s).addr = s.addr := rfl
@[simp] theorem clearBuffers_bright (s : State) : (clearBuffers s).bright = s.bright := rfl
@[simp] theorem clearBuffers_lbuf (s : State) : (clearBuffers s).lbuf = Vector.replicate 8 0#8 := rfl
@[simp] theorem clearBuffers_rbuf (s : State) : (clearBuffers s).rbuf = Vector.replicate 8 0#8 := rfl
@[simp] theorem clearBuffers_seq (s : State) : (clearBuffers s).seq = s.seq := rfl
@[simp] theorem clearBuffers_trace (s : State) : (clearBuffers s).trace = s.trace := rfl
@[simp] theorem clearBuffers_shown (s : State) : (clearBuffers s).shown = s.shown := rfl
@[simp] theorem clearBuffers_responses (s : State) : (clearBuffers s).responses = s.responses := rfl
@[simp] theorem clearBuffers_cfg (s : State) : (clearBuffers s).cfg = s.cfg := rfl
@[simp] theorem clearBuffers_port (s : State) : (clearBuffers s).port = s.port := rfl
@[simp] theorem clearBuffers_busScript (s : State) : (clearBuffers s).busScript = s.busScript := rfl
@[simp] theorem clearBuffers_busDraws (s : State) : (clearBuffers s).busDraws = s.busDraws := rfl
@[simp] theorem clearBuffers_resets (s : State) : (clearBuffers s).resets = s.resets := rfl

@[simp] theorem forgetShown_configured (s : State) : (forgetShown s).configured = s.configured := rfl
@[simp] theorem forgetShown_addr (s : State) : (forgetShown s).addr = s.addr := rfl
@[simp] theorem forgetShown_bright (s : State) : (forgetShown s).bright = s.bright := rfl
@[simp] theorem forgetShown_lbuf (s : State) : (forgetShown s).lbuf = s.lbuf := rfl
@[simp] theorem forgetShown_rbuf (s : State) : (forgetShown s).rbuf = s.rbuf := rfl
@[simp] theorem forgetShown_seq (s : State) : (forgetShown s).seq = s.seq := rfl
@[simp] theorem forgetShown_trace (s : State) : (forgetShown s).trace = s.trace := rfl
@[simp] theorem forgetShown_shown (s : State) : (forgetShown s).shown = none := rfl
@[simp] theorem forgetShown_responses (s : State) : (forgetShown s).responses = s.responses := rfl
@[simp] theorem forgetShown_cfg (s : State) : (forgetShown s).cfg = s.cfg := rfl
@[simp] theorem forgetShown_port (s : State) : (forgetShown s).port = s.port := rfl
@[simp] theorem forgetShown_busScript (s : State) : (forgetShown s).busScript = s.busScript := rfl
@[simp] theorem forgetShown_busDraws (s : State) : (forgetShown s).busDraws = s.busDraws := rfl
@[simp] theorem forgetShown_resets (s : State) : (forgetShown s).resets = s.resets := rfl

@[simp] theorem setDecimals_configured (l r : BitVec 2) (s : State) : (setDecimals l r s).configured = s.configured := rfl
@[simp] theorem setDecimals_addr (l r : BitVec 2) (s : State) : (setDecimals l r s).addr = s.addr := rfl
@[simp] theorem setDecimals_bright (l r : BitVec 2) (s : State) : (setDecimals l r s).bright = s.bright := rfl
@[simp] theorem setDecimals_lbuf (l r : BitVec 2) (s : State) : (setDecimals l r s).lbuf = s.lbuf.set 7 (applyTri l 6 s.lbuf[7]) := rfl
@[simp] theorem setDecimals_rbuf (l r : BitVec 2) (s : State) : (setDecimals l r s).rbuf = s.rbuf.set 6 (applyTri r s.cfg.rdpBit.index s.rbuf[6]) := rfl
@[simp] theorem setDecimals_seq (l r : BitVec 2) (s : State) : (setDecimals l r s).seq = s.seq := rfl
@[simp] theorem setDecimals_trace (l r : BitVec 2) (s : State) : (setDecimals l r s).trace = s.trace := rfl
@[simp] theorem setDecimals_shown (l r : BitVec 2) (s : State) : (setDecimals l r s).shown = s.shown := rfl
@[simp] theorem setDecimals_responses (l r : BitVec 2) (s : State) : (setDecimals l r s).responses = s.responses := rfl
@[simp] theorem setDecimals_cfg (l r : BitVec 2) (s : State) : (setDecimals l r s).cfg = s.cfg := rfl
@[simp] theorem setDecimals_port (l r : BitVec 2) (s : State) : (setDecimals l r s).port = s.port := rfl
@[simp] theorem setDecimals_busScript (l r : BitVec 2) (s : State) : (setDecimals l r s).busScript = s.busScript := rfl
@[simp] theorem setDecimals_busDraws (l r : BitVec 2) (s : State) : (setDecimals l r s).busDraws = s.busDraws := rfl
@[simp] theorem setDecimals_resets (l r : BitVec 2) (s : State) : (setDecimals l r s).resets = s.resets := rfl

@[simp] theorem afterAnswers_configured (n : Nat) (s : State) : (Claims.afterAnswers n s).configured = s.configured := rfl
@[simp] theorem afterAnswers_addr (n : Nat) (s : State) : (Claims.afterAnswers n s).addr = s.addr := rfl
@[simp] theorem afterAnswers_bright (n : Nat) (s : State) : (Claims.afterAnswers n s).bright = s.bright := rfl
@[simp] theorem afterAnswers_lbuf (n : Nat) (s : State) : (Claims.afterAnswers n s).lbuf = s.lbuf := rfl
@[simp] theorem afterAnswers_rbuf (n : Nat) (s : State) : (Claims.afterAnswers n s).rbuf = s.rbuf := rfl
@[simp] theorem afterAnswers_seq (n : Nat) (s : State) : (Claims.afterAnswers n s).seq = s.seq := rfl
@[simp] theorem afterAnswers_trace (n : Nat) (s : State) : (Claims.afterAnswers n s).trace = s.trace := rfl
@[simp] theorem afterAnswers_shown (n : Nat) (s : State) : (Claims.afterAnswers n s).shown = s.shown := rfl
@[simp] theorem afterAnswers_responses (n : Nat) (s : State) : (Claims.afterAnswers n s).responses = s.responses := rfl
@[simp] theorem afterAnswers_cfg (n : Nat) (s : State) : (Claims.afterAnswers n s).cfg = s.cfg := rfl
@[simp] theorem afterAnswers_port (n : Nat) (s : State) : (Claims.afterAnswers n s).port = s.port := rfl
@[simp] theorem afterAnswers_busScript (n : Nat) (s : State) : (Claims.afterAnswers n s).busScript = s.busScript.drop n := rfl
@[simp] theorem afterAnswers_busDraws (n : Nat) (s : State) : (Claims.afterAnswers n s).busDraws = s.busDraws + (n - s.busScript.length) := rfl
@[simp] theorem afterAnswers_resets (n : Nat) (s : State) : (Claims.afterAnswers n s).resets = s.resets := rfl

@[simp] theorem record_configured (w : BusWrite) (s : State) : (record w s).configured = s.configured := rfl
@[simp] theorem record_addr (w : BusWrite) (s : State) : (record w s).addr = s.addr := rfl
@[simp] theorem record_bright (w : BusWrite) (s : State) : (record w s).bright = s.bright := rfl
@[simp] theorem record_lbuf (w : BusWrite) (s : State) : (record w s).lbuf = s.lbuf := rfl
@[simp] theorem record_rbuf (w : BusWrite) (s : State) : (record w s).rbuf = s.rbuf := rfl
@[simp] theorem record_seq (w : BusWrite) (s : State) : (record w s).seq = s.seq := rfl
@[simp] theorem record_trace (w : BusWrite) (s : State) : (record w s).trace = s.trace ++ [w] := rfl
@[simp] theorem record_shown (w : BusWrite) (s : State) : (record w s).shown = s.shown := rfl
@[simp] theorem record_responses (w : BusWrite) (s : State) : (record w s).responses = s.responses := rfl
@[simp] theorem record_cfg (w : BusWrite) (s : State) : (record w s).cfg = s.cfg := rfl
@[simp] theorem record_port (w : BusWrite) (s : State) : (record w s).port = s.port := rfl
@[simp] theorem record_busScript (w : BusWrite) (s : State) : (record w s).busScript = s.busScript := rfl
@[simp] theorem record_busDraws (w : BusWrite) (s : State) : (record w s).busDraws = s.busDraws := rfl
@[simp] theorem record_resets (w : BusWrite) (s : State) : (record w s).resets = s.resets := rfl

@[simp] theorem setSeq_configured (k : Option ShowStep) (s : State) : (setSeq k s).configured = s.configured := rfl
@[simp] theorem setSeq_addr (k : Option ShowStep) (s : State) : (setSeq k s).addr = s.addr := rfl
@[simp] theorem setSeq_bright (k : Option ShowStep) (s : State) : (setSeq k s).bright = s.bright := rfl
@[simp] theorem setSeq_lbuf (k : Option ShowStep) (s : State) : (setSeq k s).lbuf = s.lbuf := rfl
@[simp] theorem setSeq_rbuf (k : Option ShowStep) (s : State) : (setSeq k s).rbuf = s.rbuf := rfl
@[simp] theorem setSeq_seq (k : Option ShowStep) (s : State) : (setSeq k s).seq = k := rfl
@[simp] theorem setSeq_trace (k : Option ShowStep) (s : State) : (setSeq k s).trace = s.trace := rfl
@[simp] theorem setSeq_shown (k : Option ShowStep) (s : State) : (setSeq k s).shown = s.shown := rfl
@[simp] theorem setSeq_responses (k : Option ShowStep) (s : State) : (setSeq k s).responses = s.responses := rfl
@[simp] theorem setSeq_cfg (k : Option ShowStep) (s : State) : (setSeq k s).cfg = s.cfg := rfl
@[simp] theorem setSeq_port (k : Option ShowStep) (s : State) : (setSeq k s).port = s.port := rfl
@[simp] theorem setSeq_busScript (k : Option ShowStep) (s : State) : (setSeq k s).busScript = s.busScript := rfl
@[simp] theorem setSeq_busDraws (k : Option ShowStep) (s : State) : (setSeq k s).busDraws = s.busDraws := rfl
@[simp] theorem setSeq_resets (k : Option ShowStep) (s : State) : (setSeq k s).resets = s.resets := rfl

@[simp] theorem noteShown_configured (s : State) : (noteShown s).configured = s.configured := rfl
@[simp] theorem noteShown_addr (s : State) : (noteShown s).addr = s.addr := rfl
@[simp] theorem noteShown_bright (s : State) : (noteShown s).bright = s.bright := rfl
@[simp] theorem noteShown_lbuf (s : State) : (noteShown s).lbuf = s.lbuf := rfl
@[simp] theorem noteShown_rbuf (s : State) : (noteShown s).rbuf = s.rbuf := rfl
@[simp] theorem noteShown_seq (s : State) : (noteShown s).seq = s.seq := rfl
@[simp] theorem noteShown_trace (s : State) : (noteShown s).trace = s.trace := rfl
@[simp] theorem noteShown_shown (s : State) : (noteShown s).shown = some (frameOf s) := rfl
@[simp] theorem noteShown_responses (s : State) : (noteShown s).responses = s.responses := rfl
@[simp] theorem noteShown_cfg (s : State) : (noteShown s).cfg = s.cfg := rfl
@[simp] theorem noteShown_port (s : State) : (noteShown s).port = s.port := rfl
@[simp] theorem noteShown_busScript (s : State) : (noteShown s).busScript = s.busScript := rfl
@[simp] theorem noteShown_busDraws (s : State) : (noteShown s).busDraws = s.busDraws := rfl
@[simp] theorem noteShown_resets (s : State) : (noteShown s).resets = s.resets := rfl

@[simp] theorem setBright_configured (lvl : BitVec 16) (s : State) : (setBright lvl s).configured = s.configured := by
  simp only [setBright]
@[simp] theorem setBright_addr (lvl : BitVec 16) (s : State) : (setBright lvl s).addr = s.addr := by
  simp only [setBright]
@[simp] theorem setBright_bright (lvl : BitVec 16) (s : State) : (setBright lvl s).bright = brightOf s.cfg.roundTie lvl := rfl
@[simp] theorem setBright_lbuf (lvl : BitVec 16) (s : State) : (setBright lvl s).lbuf = s.lbuf := by
  simp only [setBright]
@[simp] theorem setBright_rbuf (lvl : BitVec 16) (s : State) : (setBright lvl s).rbuf = s.rbuf := by
  simp only [setBright]
@[simp] theorem setBright_seq (lvl : BitVec 16) (s : State) : (setBright lvl s).seq = s.seq := by
  simp only [setBright]
@[simp] theorem setBright_trace (lvl : BitVec 16) (s : State) : (setBright lvl s).trace = s.trace := by
  simp only [setBright]
@[simp] theorem setBright_shown (lvl : BitVec 16) (s : State) : (setBright lvl s).shown = s.shown := by
  simp only [setBright]
@[simp] theorem setBright_responses (lvl : BitVec 16) (s : State) : (setBright lvl s).responses = s.responses := by
  simp only [setBright]
@[simp] theorem setBright_cfg (lvl : BitVec 16) (s : State) : (setBright lvl s).cfg = s.cfg := by
  simp only [setBright]
@[simp] theorem setBright_port (lvl : BitVec 16) (s : State) : (setBright lvl s).port = s.port := by
  simp only [setBright]
@[simp] theorem setBright_busScript (lvl : BitVec 16) (s : State) : (setBright lvl s).busScript = s.busScript := by
  simp only [setBright]
@[simp] theorem setBright_busDraws (lvl : BitVec 16) (s : State) : (setBright lvl s).busDraws = s.busDraws := by
  simp only [setBright]
@[simp] theorem setBright_resets (lvl : BitVec 16) (s : State) : (setBright lvl s).resets = s.resets := by
  simp only [setBright]

/-! ### Pixel writes: everything but the two buffers is kept -/

theorem writePix_eq (x : Fin 10) (y : Fin 8) (b : Bool) (s : State) :
    writePix x y b s = { s with lbuf := (writePix x y b s).lbuf, rbuf := (writePix x y b s).rbuf } := by
  unfold writePix; split <;> rfl

/-- Two changes of the buffers alone make one. -/
theorem buffersOnly_trans {s t u : State} (h₁ : t = { s with lbuf := t.lbuf, rbuf := t.rbuf })
    (h₂ : u = { t with lbuf := u.lbuf, rbuf := u.rbuf }) : u = { s with lbuf := u.lbuf, rbuf := u.rbuf } := by
  cases s; cases t; cases u; simp_all

theorem foldl_buffersOnly {α : Type} (f : State → α → State)
    (hf : ∀ s a, f s a = { s with lbuf := (f s a).lbuf, rbuf := (f s a).rbuf }) (l : List α) (s : State) :
    l.foldl f s = { s with lbuf := (l.foldl f s).lbuf, rbuf := (l.foldl f s).rbuf } := by
  induction l generalizing s with
  | nil => rfl
  | cons a l ih => exact buffersOnly_trans (hf s a) (ih (f s a))

theorem putGlyph_eq (xo : Fin 6) (g : Glyph) (s : State) :
    putGlyph xo g s = { s with lbuf := (putGlyph xo g s).lbuf, rbuf := (putGlyph xo g s).rbuf } :=
  foldl_buffersOnly _ (fun s _ => foldl_buffersOnly _ (fun s _ => writePix_eq _ _ _ s) _ s) _ s

@[simp] theorem writePix_configured (x : Fin 10) (y : Fin 8) (b : Bool) (s : State) : (writePix x y b s).configured = s.configured := by
  rw [writePix_eq]
@[simp] theorem writePix_addr (x : Fin 10) (y : Fin 8) (b : Bool) (s : State) : (writePix x y b s).addr = s.addr := by
  rw [writePix_eq]
@[simp] theorem writePix_bright (x : Fin 10) (y : Fin 8) (b : Bool) (s : State) : (writePix x y b s).bright = s.bright := by
  rw [writePix_eq]
@[simp] theorem writePix_seq (x : Fin 10) (y : Fin 8) (b : Bool) (s : State) : (writePix x y b s).seq = s.seq := by
  rw [writePix_eq]
@[simp] theorem writePix_trace (x : Fin 10) (y : Fin 8) (b : Bool) (s : State) : (writePix x y b s).trace = s.trace := by
  rw [writePix_eq]
@[simp] theorem writePix_shown (x : Fin 10) (y : Fin 8) (b : Bool) (s : State) : (writePix x y b s).shown = s.shown := by
  rw [writePix_eq]
@[simp] theorem writePix_responses (x : Fin 10) (y : Fin 8) (b : Bool) (s : State) : (writePix x y b s).responses = s.responses := by
  rw [writePix_eq]
@[simp] theorem writePix_cfg (x : Fin 10) (y : Fin 8) (b : Bool) (s : State) : (writePix x y b s).cfg = s.cfg := by
  rw [writePix_eq]
@[simp] theorem writePix_port (x : Fin 10) (y : Fin 8) (b : Bool) (s : State) : (writePix x y b s).port = s.port := by
  rw [writePix_eq]
@[simp] theorem writePix_busScript (x : Fin 10) (y : Fin 8) (b : Bool) (s : State) : (writePix x y b s).busScript = s.busScript := by
  rw [writePix_eq]
@[simp] theorem writePix_busDraws (x : Fin 10) (y : Fin 8) (b : Bool) (s : State) : (writePix x y b s).busDraws = s.busDraws := by
  rw [writePix_eq]
@[simp] theorem writePix_resets (x : Fin 10) (y : Fin 8) (b : Bool) (s : State) : (writePix x y b s).resets = s.resets := by
  rw [writePix_eq]

@[simp] theorem putGlyph_configured (xo : Fin 6) (g : Glyph) (s : State) : (putGlyph xo g s).configured = s.configured := by
  rw [putGlyph_eq]
@[simp] theorem putGlyph_addr (xo : Fin 6) (g : Glyph) (s : State) : (putGlyph xo g s).addr = s.addr := by
  rw [putGlyph_eq]
@[simp] theorem putGlyph_bright (xo : Fin 6) (g : Glyph) (s : State) : (putGlyph xo g s).bright = s.bright := by
  rw [putGlyph_eq]
@[simp] theorem putGlyph_seq (xo : Fin 6) (g : Glyph) (s : State) : (putGlyph xo g s).seq = s.seq := by
  rw [putGlyph_eq]
@[simp] theorem putGlyph_trace (xo : Fin 6) (g : Glyph) (s : State) : (putGlyph xo g s).trace = s.trace := by
  rw [putGlyph_eq]
@[simp] theorem putGlyph_shown (xo : Fin 6) (g : Glyph) (s : State) : (putGlyph xo g s).shown = s.shown := by
  rw [putGlyph_eq]
@[simp] theorem putGlyph_responses (xo : Fin 6) (g : Glyph) (s : State) : (putGlyph xo g s).responses = s.responses := by
  rw [putGlyph_eq]
@[simp] theorem putGlyph_cfg (xo : Fin 6) (g : Glyph) (s : State) : (putGlyph xo g s).cfg = s.cfg := by
  rw [putGlyph_eq]
@[simp] theorem putGlyph_port (xo : Fin 6) (g : Glyph) (s : State) : (putGlyph xo g s).port = s.port := by
  rw [putGlyph_eq]
@[simp] theorem putGlyph_busScript (xo : Fin 6) (g : Glyph) (s : State) : (putGlyph xo g s).busScript = s.busScript := by
  rw [putGlyph_eq]
@[simp] theorem putGlyph_busDraws (xo : Fin 6) (g : Glyph) (s : State) : (putGlyph xo g s).busDraws = s.busDraws := by
  rw [putGlyph_eq]
@[simp] theorem putGlyph_resets (xo : Fin 6) (g : Glyph) (s : State) : (putGlyph xo g s).resets = s.resets := by
  rw [putGlyph_eq]

end Sys2Proof.Machine
end

