-- ==== Sys2Proof/Laws/Bus.lean ====
section
/-! SUPPORT. The bus-write port and the sequencer, once: what an answer, a write and the rest of a SHOW can do. -/

namespace Sys2Proof.Machine

open Sys2Proof.Claims

/-- Taking an answer gives the answer at 0 and moves one answer on. -/
theorem nextAnswer_eq (s : State) : nextAnswer s = (answerAt s 0, afterAnswers 1 s) := by
  unfold nextAnswer answerAt afterAnswers
  cases h : s.busScript <;> simp

theorem answerAt_afterAnswers (s : State) (n k : Nat) : answerAt (afterAnswers n s) k = answerAt s (n + k) := by
  unfold answerAt
  by_cases h : n + k < s.busScript.length
  · have h' : k < s.busScript.length - n := by omega
    simp [h, h']
  · have h' : ¬ k < s.busScript.length - n := by omega
    have e : s.busDraws + (n - s.busScript.length) + (k - (s.busScript.length - n)) =
        s.busDraws + (n + k - s.busScript.length) := by omega
    simp [h, h', e]

theorem afterAnswers_afterAnswers (s : State) (n k : Nat) :
    afterAnswers k (afterAnswers n s) = afterAnswers (n + k) s := by
  have e : s.busDraws + (n - s.busScript.length) + (k - (s.busScript.length - n)) =
      s.busDraws + (n + k - s.busScript.length) := by omega
  unfold afterAnswers
  simp [e]

@[simp] theorem afterAnswers_zero (s : State) : afterAnswers 0 s = s := by
  unfold afterAnswers
  simp

/-- The answers depend on the script and the draw counter alone. -/
theorem answerAt_congr {s t : State} (h₁ : t.busScript = s.busScript) (h₂ : t.busDraws = s.busDraws) (k : Nat) :
    answerAt t k = answerAt s k := by
  unfold answerAt
  simp [h₁, h₂]

/-- Everything MemWrite can do (20_memory.md R58): an answered write takes one answer and adds one entry to TRACE;
an unanswered one gives no state. -/
theorem memWrite_eq (reg : Byte) (bytes : List Byte) (s : State) :
    memWrite reg bytes s =
      match answerAt s 0 with
      | some o => .answered o (record ⟨s.addr, reg, bytes, o⟩ (afterAnswers 1 s))
      | none => .never := by
  unfold memWrite
  rw [nextAnswer_eq]
  cases answerAt s 0 <;> rfl

/-- The payload of a step depends on the buffers and BRIGHT alone. -/
theorem showBytes_congr {s t : State} (hl : t.lbuf = s.lbuf) (hr : t.rbuf = s.rbuf) (hb : t.bright = s.bright)
    (k : ShowStep) : showBytes k t = showBytes k s := by
  cases k <;> simp [showBytes, hl, hr, hb]

/-- The entry of TRACE for a step of the sequencer. -/
def showEntry (s : State) (o : BusOutcome) (k : ShowStep) : BusWrite := ⟨s.addr, showReg k, showBytes k s, o⟩

/-- The state after the successful write of step `k`, from which the sequencer goes on. -/
def afterShowStep (k : ShowStep) (s : State) : State :=
  record (showEntry s .success k) (afterAnswers 1 (setSeq (some k) s))

theorem answerAt_afterShowStep (k : ShowStep) (s : State) (j : Nat) :
    answerAt (afterShowStep k s) j = answerAt s (j + 1) := by
  rw [answerAt_congr (s := afterAnswers 1 s) (by simp [afterShowStep]) (by simp [afterShowStep]),
    answerAt_afterAnswers, Nat.add_comm]

theorem showEntry_afterShowStep (k : ShowStep) (s : State) (o : BusOutcome) :
    showEntry (afterShowStep k s) o = showEntry s o := by
  funext j
  unfold showEntry
  rw [showBytes_congr (s := s) (by simp [afterShowStep]) (by simp [afterShowStep]) (by simp [afterShowStep])]
  simp [afterShowStep]

/-- One step of the sequencer, by the answer its write gets (R180, R182, R245). -/
theorem sequencer_cons (k : ShowStep) (ks : List ShowStep) (s : State) :
    sequencer (k :: ks) s =
      match answerAt s 0 with
      | some .success => sequencer ks (afterShowStep k s)
      | some .failure =>
        raise .errTransmit (forgetShown (setSeq none (record (showEntry s .failure k) (afterAnswers 1 s))))
      | none => .fault (.busNeverAnswers (some k)) := by
  have e : answerAt (setSeq (some k) s) 0 = answerAt s 0 := answerAt_congr rfl rfl 0
  simp only [sequencer, memWrite_eq, e]
  rcases answerAt s 0 with _ | _ | _ <;> rfl

/-- The state inside a SHOW after `n` answers, with the entries `d` added to TRACE and SEQ at `q`. -/
def midShow (n : Nat) (d : List BusWrite) (q : Option ShowStep) (s : State) : State :=
  { afterAnswers n s with trace := s.trace ++ d, seq := q }

theorem answerAt_midShow (n : Nat) (d : List BusWrite) (q : Option ShowStep) (s : State) (k : Nat) :
    answerAt (midShow n d q s) k = answerAt s (n + k) := by
  rw [← answerAt_afterAnswers]
  exact answerAt_congr rfl rfl k

theorem showEntry_midShow (n : Nat) (d : List BusWrite) (q : Option ShowStep) (s : State) (o : BusOutcome) :
    showEntry (midShow n d q s) o = showEntry s o := by
  funext j
  cases j <;> rfl

theorem midShow_afterAnswers (n : Nat) (d : List BusWrite) (q : Option ShowStep) (s : State) :
    afterAnswers 1 (midShow n d q s) = midShow (n + 1) d q s := by
  have e := congrArg (fun t : State => (t.busScript, t.busDraws)) (afterAnswers_afterAnswers s n 1)
  apply State.ext <;> simp_all [midShow]

/-- The rest of a SHOW whose first `k` writes succeed: the sequencer goes on from write `k` (R181). -/
theorem sequencer_prefix (ks : List ShowStep) (s : State) (k : Nat) (hk : k ≤ ks.length)
    (h : ∀ j < k, answerAt s j = some .success) :
    ∃ q, sequencer ks s = sequencer (ks.drop k) (midShow k ((ks.take k).map (showEntry s .success)) q s) := by
  induction k generalizing ks s with
  | zero => exact ⟨s.seq, by simp [midShow]⟩
  | succ k ih =>
    cases ks with
    | nil => simp at hk
    | cons a ks =>
      obtain ⟨q, hq⟩ := ih ks (afterShowStep a s) (by simpa using hk) fun j hj => by
        rw [answerAt_afterShowStep]; exact h (j + 1) (by omega)
      refine ⟨q, ?_⟩
      rw [sequencer_cons, h 0 (by omega)]
      simp only [hq, showEntry_afterShowStep, List.drop_succ_cons, List.take_succ_cons, List.map_cons]
      congr 1
      have e := congrArg (fun t : State => (t.busScript, t.busDraws)) (afterAnswers_afterAnswers s 1 k)
      rw [Nat.add_comm] at e
      apply State.ext <;> simp_all [afterShowStep, midShow]

end Sys2Proof.Machine
end

