-- ==== Sys2Proof/Laws/Pixels.lean ====
section
/-! SUPPORT. What each buffer operation does to each bit, once: `setBit`, `applyTri`, `writePix`, `putGlyph`. -/

namespace Sys2Proof.Machine

theorem getLsbD_setBit (v : Byte) (b : Nat) (s : Bool) (k : Nat) (hb : b < 8) :
    (setBit v b s).getLsbD k = if k = b then s else v.getLsbD k := by
  by_cases hk : k < 8
  · rcases Nat.lt_trichotomy k b with h | h | h
    · simp [setBit, hk, h, Nat.ne_of_lt h, Nat.sub_eq_zero_of_le (Nat.le_of_lt h)]
    · subst h; simp [setBit, hk]
    · have h₁ : ¬ k < b := by omega
      have h₂ : k - b ≠ 0 := by omega
      simp [setBit, hk, h₁, h₂, Nat.ne_of_gt h]
  · have h : k ≠ b := by omega
    simp [h, BitVec.getLsbD_of_ge _ _ (Nat.le_of_not_lt hk)]

theorem getLsbD_applyTri (t : BitVec 2) (b : Nat) (v : Byte) (k : Nat) (hb : b < 8) :
    (applyTri t b v).getLsbD k = if k = b ∧ t.getLsbD 1 = true then t.getLsbD 0 else v.getLsbD k := by
  unfold applyTri
  split <;> simp_all [getLsbD_setBit]

theorem rdpIndex_lt (r : RdpBit) : r.index < 8 := by cases r <;> decide

theorem rdpIndex_ge (r : RdpBit) : 5 < r.index := by cases r <;> decide

/-- WritePix on the left buffer: bit `y` of byte `x`, for the five left columns (R142). -/
theorem writePix_lbuf_bit (x : Fin 10) (y : Fin 8) (b : Bool) (s : State) (i k : Fin 8) :
    (writePix x y b s).lbuf[i.val].getLsbD k.val =
      if x.val ≤ 4 ∧ x.val = i.val ∧ k.val = y.val then b else s.lbuf[i.val].getLsbD k.val := by
  unfold writePix
  split
  · rename_i h
    by_cases hi : x.val = i.val
    · simp only [Vector.getElem_set, hi, if_true]
      rw [getLsbD_setBit _ _ _ _ y.isLt]
      have : i.val ≤ 4 := by omega
      simp [this]
    · simp [hi]
  · rename_i h
    simp [h]

/-- WritePix on the right buffer: bit `x - 5` of byte `y`, for the five right columns (R142). -/
theorem writePix_rbuf_bit (x : Fin 10) (y : Fin 8) (b : Bool) (s : State) (i k : Fin 8) :
    (writePix x y b s).rbuf[i.val].getLsbD k.val =
      if 5 ≤ x.val ∧ y.val = i.val ∧ k.val = x.val - 5 then b else s.rbuf[i.val].getLsbD k.val := by
  unfold writePix
  split
  · rename_i h
    have : ¬ 5 ≤ x.val := by omega
    simp [this]
  · rename_i h
    have h5 : 5 ≤ x.val := by omega
    by_cases hi : y.val = i.val
    · simp only [Vector.getElem_set, hi, if_true]
      rw [getLsbD_setBit _ _ _ _ (by omega)]
      simp [h5]
    · simp [hi]

/-- One column of a glyph: rows in `l`, all in display column `x`. -/
theorem putColumn_lbuf_bit (x : Fin 10) (c : Byte) (l : List (Fin 8)) (s : State) (i k : Fin 8) :
    (l.foldl (fun s cy => writePix x cy (c.getLsbD cy.val) s) s).lbuf[i.val].getLsbD k.val =
      if x.val ≤ 4 ∧ x.val = i.val ∧ k ∈ l then c.getLsbD k.val else s.lbuf[i.val].getLsbD k.val := by
  induction l generalizing s with
  | nil => simp
  | cons a l ih =>
    rw [List.foldl_cons, ih, writePix_lbuf_bit]
    by_cases hk : k = a
    · subst hk; by_cases hx : x.val ≤ 4 ∧ x.val = i.val <;> simp_all
    · have : ¬ k.val = a.val := fun h => hk (Fin.ext h)
      simp [hk, this]

theorem putColumn_rbuf_bit (x : Fin 10) (c : Byte) (l : List (Fin 8)) (s : State) (i k : Fin 8) :
    (l.foldl (fun s cy => writePix x cy (c.getLsbD cy.val) s) s).rbuf[i.val].getLsbD k.val =
      if 5 ≤ x.val ∧ k.val = x.val - 5 ∧ i ∈ l then c.getLsbD i.val else s.rbuf[i.val].getLsbD k.val := by
  induction l generalizing s with
  | nil => simp
  | cons a l ih =>
    rw [List.foldl_cons, ih, writePix_rbuf_bit]
    by_cases hi : i = a
    · subst hi; by_cases hx : 5 ≤ x.val ∧ k.val = x.val - 5 <;> simp_all
    · have : ¬ a.val = i.val := fun h => hi (Fin.ext h.symm)
      simp [hi, this]

/-- PutChar on the left buffer (R160): columns `xo` to 4 take the glyph's bytes, bit for bit. -/
theorem putGlyph_lbuf_bit (xo : Fin 6) (g : Glyph) (s : State) (i k : Fin 8) :
    (putGlyph xo g s).lbuf[i.val].getLsbD k.val =
      if h : xo.val ≤ i.val ∧ i.val ≤ 4 then g[i.val - xo.val].getLsbD k.val
      else s.lbuf[i.val].getLsbD k.val := by
  have main : ∀ (l : List (Fin 5)) (s : State),
      (l.foldl (fun s cx => (List.finRange 8).foldl
        (fun s cy => writePix ⟨xo.val + cx.val, by omega⟩ cy (g[cx.val].getLsbD cy.val) s) s) s).lbuf[i.val].getLsbD k.val =
      if h : i.val ≤ 4 ∧ ∃ c ∈ l, xo.val + c.val = i.val then (g[i.val - xo.val]'(by omega)).getLsbD k.val
      else s.lbuf[i.val].getLsbD k.val := by
    intro l
    induction l with
    | nil => simp
    | cons a l ih =>
      intro s
      rw [List.foldl_cons, ih, putColumn_lbuf_bit]
      by_cases ha : xo.val + a.val = i.val
      · have hs : i.val - xo.val = a.val := by omega
        by_cases h4 : i.val ≤ 4 <;> simp [ha, h4, hs]
      · simp [ha]
  rw [putGlyph, main]
  by_cases h : xo.val ≤ i.val ∧ i.val ≤ 4
  · have : ∃ c ∈ List.finRange 5, xo.val + c.val = i.val :=
      ⟨⟨i.val - xo.val, by omega⟩, List.mem_finRange _, by show xo.val + (i.val - xo.val) = i.val; omega⟩
    rw [dif_pos ⟨h.2, this⟩, dif_pos h]
  · rw [dif_neg h, dif_neg]
    rintro ⟨h4, c, -, hc⟩
    omega

/-- PutChar on the right buffer (R160): bits 0 to `xo - 1` of every byte take the glyph's last columns, transposed. -/
theorem putGlyph_rbuf_bit (xo : Fin 6) (g : Glyph) (s : State) (i k : Fin 8) :
    (putGlyph xo g s).rbuf[i.val].getLsbD k.val =
      if h : k.val < xo.val then (g[5 - xo.val + k.val]'(by omega)).getLsbD i.val
      else s.rbuf[i.val].getLsbD k.val := by
  have main : ∀ (l : List (Fin 5)) (s : State),
      (l.foldl (fun s cx => (List.finRange 8).foldl
        (fun s cy => writePix ⟨xo.val + cx.val, by omega⟩ cy (g[cx.val].getLsbD cy.val) s) s) s).rbuf[i.val].getLsbD k.val =
      if h : ∃ c ∈ l, xo.val + c.val = k.val + 5 then
        (g[k.val + 5 - xo.val]'(by omega)).getLsbD i.val
      else s.rbuf[i.val].getLsbD k.val := by
    intro l
    induction l with
    | nil => simp
    | cons a l ih =>
      intro s
      rw [List.foldl_cons, ih, putColumn_rbuf_bit]
      by_cases ha : xo.val + a.val = k.val + 5
      · have hs : k.val + 5 - xo.val = a.val := by omega
        simp [ha, hs]
      · have : ¬ (5 ≤ xo.val + a.val ∧ k.val = xo.val + a.val - 5) := by omega
        simp [ha, this]
  rw [putGlyph, main]
  by_cases h : k.val < xo.val
  · have : ∃ c ∈ List.finRange 5, xo.val + c.val = k.val + 5 :=
      ⟨⟨k.val + 5 - xo.val, by omega⟩, List.mem_finRange _, by show xo.val + (k.val + 5 - xo.val) = k.val + 5; omega⟩
    have hs : k.val + 5 - xo.val = 5 - xo.val + k.val := by omega
    rw [dif_pos this, dif_pos h]
    simp only [hs]
  · rw [dif_neg h, dif_neg]
    rintro ⟨c, -, hc⟩
    omega

/-- Two buffers with the same bits are the same. -/
theorem buffer_ext_bits {a b : Buffer} (h : ∀ i k : Fin 8, a[i.val].getLsbD k.val = b[i.val].getLsbD k.val) : a = b := by
  apply Vector.ext
  intro i hi
  apply BitVec.eq_of_getLsbD_eq
  intro k hk
  exact h ⟨i, hi⟩ ⟨k, hk⟩

end Sys2Proof.Machine
end

