-- ==== Sys2Proof/Laws/Commands.lean ====
section
/-! SUPPORT. What each command can do, once: the equations of the meanings on their cases, and the inversion lemma of
`exec` that later proofs cite instead of unfolding the meanings. -/

namespace Sys2Proof.Machine

open Sys2Proof.Claims

/-! ### Equations of the meanings -/

theorem requireConfigured_true {s : State} (h : s.configured = true) (r : Result) : requireConfigured s r = r := by
  simp [requireConfigured, h]

theorem requireConfigured_false {s : State} (h : s.configured = false) (r : Result) :
    requireConfigured s r = .next (respond .errUnconfigured s) := by
  simp [requireConfigured, h, raise]

/-- Every command but CONSTRUCT goes through the CONFIGURED check first (R207). -/
theorem exec_unconfigured (i : Instr) (s : State) (h : s.configured = false) (hi : i.mnemonic ≠ .construct) :
    exec i s = .next (respond .errUnconfigured s) := by
  cases i with
  | construct addr lvl => exact absurd rfl hi
  | clear => exact requireConfigured_false h _
  | setbrt t lvl => exact requireConfigured_false h _
  | setdec l r => exact requireConfigured_false h _
  | setpix b x y => exact requireConfigured_false h _
  | setchr xo ch => exact requireConfigured_false h _
  | setpair len c0 c1 => exact requireConfigured_false h _
  | showFrame => exact requireConfigured_false h _

theorem legalAddress_iff (addr : BitVec 8) :
    legalAddress addr = true ↔ addr = 0x61#8 ∨ addr = 0x62#8 ∨ addr = 0x63#8 := by
  simp [legalAddress, or_assoc]

/-- SETPIX in range is one WritePix (R142). -/
theorem execSetpix_inRange (b : Bool) (x y : BitVec 8) (s : State) (h : s.configured = true)
    (hx : x.toNat < 10) (hy : y.toNat < 8) :
    execSetpix b x y s = .next (respond .ok (writePix ⟨x.toNat, hx⟩ ⟨y.toNat, hy⟩ b s)) := by
  have hr : x.toNat ≤ 9 ∧ y.toNat ≤ 7 := by omega
  rw [execSetpix, requireConfigured_true h, dif_pos hr, returnOk]

/-- SETPIX out of range changes nothing (R142). -/
theorem execSetpix_outOfRange (b : Bool) (x y : BitVec 8) (s : State) (h : s.configured = true)
    (hr : 9 < x.toNat ∨ 7 < y.toNat) : execSetpix b x y s = .next (respond .errRange s) := by
  have hr' : ¬ (x.toNat ≤ 9 ∧ y.toNat ≤ 7) := by omega
  rw [execSetpix, requireConfigured_true h, dif_neg hr', raise]

/-- When a lookup has no glyph (R110, R113). -/
theorem lookup_eq_none_of (font : FontRom) {c : Nat} (h : c < 32 ∨ 126 < c) : lookup font c = none := by
  unfold lookup
  rw [dif_neg (by omega)]

/-- When a lookup has a glyph (R110). -/
theorem lookup_isSome_of (font : FontRom) {c : Nat} (h₁ : 32 ≤ c) (h₂ : c ≤ 126) : ∃ g, lookup font c = some g := by
  unfold lookup
  rw [dif_pos ⟨h₁, h₂⟩]
  exact ⟨_, rfl⟩

/-- A code with a glyph is printable (R110). -/
theorem printable_iff (font : FontRom) (c : BitVec 8) : printable c = true ↔ ∃ g, lookup font c.toNat = some g := by
  by_cases h : 32 ≤ c.toNat ∧ c.toNat ≤ 126
  · simp [printable, h, lookup_isSome_of font h.1 h.2]
  · have : c.toNat < 32 ∨ 126 < c.toNat := by omega
    simp [printable, lookup_eq_none_of font this]
    omega

theorem putChar_glyph {xo ch : Nat} {s : State} (h : lookup s.cfg.font ch = none) :
    putChar xo ch s = .error .errGlyph := by
  simp [putChar, h]

theorem putChar_range {xo ch : Nat} {s : State} {g : Glyph} (h : lookup s.cfg.font ch = some g) (hx : 5 < xo) :
    putChar xo ch s = .error .errRange := by
  have : ¬ xo ≤ 5 := by omega
  simp [putChar, h, this]

theorem putChar_ok {xo ch : Nat} {s : State} {g : Glyph} (h : lookup s.cfg.font ch = some g) (hx : xo < 6) :
    putChar xo ch s = .ok (putGlyph ⟨xo, hx⟩ g s) := by
  have : xo ≤ 5 := by omega
  simp [putChar, h, this]

/-! ### What buffer operations keep -/

/-- Pixel writes and SETDEC's flag writes keep the spare bits zero (10_state.md R25). -/
theorem putGlyph_spare {xo : Fin 6} {g : Glyph} {s : State} (h : SpareBitsZero s) : SpareBitsZero (putGlyph xo g s) := by
  refine ⟨fun i b hi hb => ?_, fun i b hb hi => ?_⟩
  · rw [putGlyph_lbuf_bit, dif_neg (by omega)]
    exact h.1 i b hi hb
  · rw [putGlyph_rbuf_bit, dif_neg (by omega)]
    exact h.2 i b hb (by simpa using hi)

theorem writePix_spare {x : Fin 10} {y : Fin 8} {b : Bool} {s : State} (h : SpareBitsZero s) :
    SpareBitsZero (writePix x y b s) := by
  refine ⟨fun i k hi hk => ?_, fun i k hk hi => ?_⟩
  · rw [writePix_lbuf_bit, if_neg (by omega)]
    exact h.1 i k hi hk
  · rw [writePix_rbuf_bit, if_neg (by omega)]
    exact h.2 i k hk (by simpa using hi)

theorem clearBuffers_spare (s : State) : SpareBitsZero (clearBuffers s) :=
  ⟨fun i b _ _ => by simp, fun i b _ _ => by simp⟩

theorem setDecimals_lbuf_bit (l r : BitVec 2) (s : State) (i k : Fin 8) :
    (setDecimals l r s).lbuf[i.val].getLsbD k.val =
      if i.val = 7 ∧ k.val = 6 ∧ l.getLsbD 1 = true then l.getLsbD 0 else s.lbuf[i.val].getLsbD k.val := by
  simp only [setDecimals_lbuf, Vector.getElem_set]
  by_cases hi : 7 = i.val
  · rw [if_pos hi, getLsbD_applyTri _ _ _ _ (by omega)]
    simp only [← hi, true_and]
  · rw [if_neg hi, if_neg (by omega)]

theorem setDecimals_rbuf_bit (l r : BitVec 2) (s : State) (i k : Fin 8) :
    (setDecimals l r s).rbuf[i.val].getLsbD k.val =
      if i.val = 6 ∧ k.val = s.cfg.rdpBit.index ∧ r.getLsbD 1 = true then r.getLsbD 0
      else s.rbuf[i.val].getLsbD k.val := by
  simp only [setDecimals_rbuf, Vector.getElem_set]
  by_cases hi : 6 = i.val
  · rw [if_pos hi, getLsbD_applyTri _ _ _ _ (rdpIndex_lt _)]
    simp only [← hi, true_and]
  · rw [if_neg hi, if_neg (by omega)]

theorem setDecimals_spare {l r : BitVec 2} {s : State} (h : SpareBitsZero s) : SpareBitsZero (setDecimals l r s) := by
  refine ⟨fun i k hi hk => ?_, fun i k hk hi => ?_⟩
  · rw [setDecimals_lbuf_bit, if_neg (fun c => hk ⟨c.1, c.2.1⟩)]
    exact h.1 i k hi hk
  · rw [setDecimals_rbuf_bit, if_neg (fun c => hi ⟨c.1, by simpa using c.2.1⟩)]
    exact h.2 i k hk (by simpa using hi)

theorem pix_writePix (x : Fin 10) (y : Fin 8) (b : Bool) (s : State) (x' : Fin 10) (y' : Fin 8) :
    pix (writePix x y b s) x' y' = if x' = x ∧ y' = y then b else pix s x' y' := by
  unfold pix
  split
  · rw [writePix_lbuf_bit x y b s ⟨x'.val, by omega⟩ y']
    congr 1
    simp [Fin.ext_iff]
    omega
  · rw [writePix_rbuf_bit x y b s y' ⟨x'.val - 5, by omega⟩]
    congr 1
    simp [Fin.ext_iff]
    omega

/-- Pixel writes leave both decimal points alone (R24, R142). -/
theorem writePix_flags (x : Fin 10) (y : Fin 8) (b : Bool) (s : State) :
    ldp (writePix x y b s) = ldp s ∧ rdp (writePix x y b s) = rdp s := by
  have hr := rdpIndex_ge s.cfg.rdpBit
  have hr' := rdpIndex_lt s.cfg.rdpBit
  constructor
  · have h := writePix_lbuf_bit x y b s 7 6
    rw [if_neg (by simp; omega)] at h
    exact h
  · have h := writePix_rbuf_bit x y b s 6 ⟨s.cfg.rdpBit.index, hr'⟩
    rw [if_neg (by simp; omega)] at h
    simpa [rdp] using h

theorem putGlyph_flags (xo : Fin 6) (g : Glyph) (s : State) :
    ldp (putGlyph xo g s) = ldp s ∧ rdp (putGlyph xo g s) = rdp s := by
  have hr := rdpIndex_ge s.cfg.rdpBit
  have hr' := rdpIndex_lt s.cfg.rdpBit
  constructor
  · have h := putGlyph_lbuf_bit xo g s 7 6
    rw [dif_neg (by simp)] at h
    exact h
  · have h := putGlyph_rbuf_bit xo g s 6 ⟨s.cfg.rdpBit.index, hr'⟩
    rw [dif_neg (by simp; omega)] at h
    simpa [rdp] using h

/-- PutChar on one pixel (R160): the covered columns take the glyph's bits. -/
theorem pix_putGlyph (xo : Fin 6) (g : Glyph) (s : State) (x : Fin 10) (y : Fin 8) :
    pix (putGlyph xo g s) x y =
      if h : xo.val ≤ x.val ∧ x.val ≤ xo.val + 4 then (g[x.val - xo.val]'(by omega)).getLsbD y.val
      else pix s x y := by
  unfold pix
  split
  · rename_i h
    rw [putGlyph_lbuf_bit xo g s ⟨x.val, by omega⟩ y]
    by_cases hx : xo.val ≤ x.val
    · rw [dif_pos ⟨hx, h⟩, dif_pos ⟨hx, by omega⟩]
    · rw [dif_neg (by simp; omega), dif_neg (by omega)]
  · rename_i h
    rw [putGlyph_rbuf_bit xo g s y ⟨x.val - 5, by omega⟩]
    by_cases hx : x.val ≤ xo.val + 4
    · rw [dif_pos (show x.val - 5 < xo.val by omega), dif_pos ⟨by omega, hx⟩]
      have e : 5 - xo.val + (x.val - 5) = x.val - xo.val := by omega
      simp only [e]
    · rw [dif_neg (by simp; omega), dif_neg (by omega)]

/-! ### Inversion of `exec` -/

/-- What a command that changes only the buffers may have done to them. -/
structure BufferEffect (i : Instr) (s t : State) (st : Status) : Prop where
  only  : OnlyBuffersChange s t st
  spare : i.mnemonic = .clear ∨ (SpareBitsZero s → SpareBitsZero t)
  flags : i.mnemonic = .setdec ∨ i.mnemonic = .clear ∨ (ldp t = ldp s ∧ rdp t = rdp s)
  zero  : i.mnemonic = .clear → SpareBitsZero t
  part  : st ≠ .ok → i.mnemonic = .setpair ∧ st = .errGlyph ∧ t.rbuf = s.rbuf

/-- Everything a command can do when it answers a next state. -/
inductive Effect (i : Instr) (s t : State) : Prop
  /-- An error with nothing changed (R201 to R204, R207). -/
  | refused (st : Status) (h : st ≠ .ok) (hm : st ∈ statusesOf i) (ht : t = respond st s)
  /-- A successful CONSTRUCT (R120). -/
  | constructed (addr : BitVec 8) (lvl : BitVec 16) (hi : i = .construct addr lvl) (hl : legalAddress addr = true)
      (ht : t = respond .ok { clearBuffers s with
        addr := addr.setWidth 7, bright := brightOf s.cfg.roundTie lvl, configured := true })
  /-- A command that changed only the buffers (R140 to R163). -/
  | buffers (st : Status) (hc : s.configured = true) (hm : st ∈ statusesOf i) (hw : writesBuffers i = true)
      (hi : i.mnemonic ≠ .construct) (he : BufferEffect i s t st)
  /-- SETBRT without transmit (R122). -/
  | bright (lvl : BitVec 16) (hi : i = .setbrt false lvl) (hc : s.configured = true)
      (ht : t = respond .ok (setBright lvl s))
  /-- SETBRT with transmit, its write answered (R122). -/
  | transmitted (lvl : BitVec 16) (o : BusOutcome) (hi : i = .setbrt true lvl) (hc : s.configured = true)
      (ha : answerAt s 0 = some o)
      (ht : t = respond (if o = .success then .ok else .errTransmit) (forgetShown
        (record ⟨s.addr, 0x19#8, [(brightOf s.cfg.roundTie lvl).setWidth 8], o⟩ (afterAnswers 1 (setBright lvl s)))))
  /-- SHOW, all six writes succeeded (R180). -/
  | shown (hi : i = .showFrame) (hc : s.configured = true) (ha : ∀ k < 6, answerAt s k = some .success)
      (ht : t = { afterAnswers 6 s with
        trace := s.trace ++ frameWrites s.addr ⟨s.lbuf, s.rbuf, s.bright⟩
        shown := some ⟨s.lbuf, s.rbuf, s.bright⟩
        seq := none
        responses := s.responses ++ [.ok] })
  /-- SHOW, write `k` failed (R182). -/
  | showFailed (k : Nat) (hi : i = .showFrame) (hc : s.configured = true) (hk : k < 6)
      (ha : ∀ j < k, answerAt s j = some .success) (hf : answerAt s k = some .failure)
      (ht : t = { afterAnswers (k + 1) s with
        trace := s.trace ++ failedFrameWrites s.addr ⟨s.lbuf, s.rbuf, s.bright⟩ k
        shown := none
        seq := none
        responses := s.responses ++ [.errTransmit] })

/-- TRACE entries of the sequencer's steps are the frame's (R181). -/
theorem map_showEntry_showOrder (s : State) :
    showOrder.map (showEntry s .success) = frameWrites s.addr ⟨s.lbuf, s.rbuf, s.bright⟩ := rfl

/-- SHOW with every write answered by success (R180). -/
theorem execShowFrame_ok (s : State) (hc : s.configured = true) (ha : ∀ k < 6, answerAt s k = some .success) :
    execShowFrame s = .next { afterAnswers 6 s with
      trace := s.trace ++ frameWrites s.addr ⟨s.lbuf, s.rbuf, s.bright⟩
      shown := some ⟨s.lbuf, s.rbuf, s.bright⟩
      seq := none
      responses := s.responses ++ [.ok] } := by
  obtain ⟨q, hq⟩ := sequencer_prefix showOrder s 6 (by decide) ha
  rw [execShowFrame, requireConfigured_true hc, hq]
  rfl

/-- SHOW whose write `k` fails (R182). -/
theorem execShowFrame_fails (s : State) (k : Nat) (hc : s.configured = true) (hk : k < 6)
    (ha : ∀ j < k, answerAt s j = some .success) (hf : answerAt s k = some .failure) :
    execShowFrame s = .next { afterAnswers (k + 1) s with
      trace := s.trace ++ failedFrameWrites s.addr ⟨s.lbuf, s.rbuf, s.bright⟩ k
      shown := none
      seq := none
      responses := s.responses ++ [.errTransmit] } := by
  have hk' : k < showOrder.length := hk
  obtain ⟨q, hq⟩ := sequencer_prefix showOrder s k (Nat.le_of_lt hk) ha
  rw [execShowFrame, requireConfigured_true hc, hq, List.drop_eq_getElem_cons hk', sequencer_cons]
  rw [answerAt_midShow, Nat.add_zero, hf]
  simp only [raise, midShow_afterAnswers, showEntry_midShow]
  have hd : (showOrder.take k).map (showEntry s .success) ++ [showEntry s .failure showOrder[k]] =
      failedFrameWrites s.addr ⟨s.lbuf, s.rbuf, s.bright⟩ k := by
    interval_cases k <;> rfl
  rw [← hd, ← List.append_assoc]
  rfl

/-- SHOW whose write `k` is never answered (R245). -/
theorem execShowFrame_stuck (s : State) (k : Nat) (hc : s.configured = true) (hk : k < 6)
    (ha : ∀ j < k, answerAt s j = some .success) (hf : answerAt s k = none) :
    execShowFrame s = .fault (.busNeverAnswers showOrder[k]?) := by
  have hk' : k < showOrder.length := hk
  obtain ⟨q, hq⟩ := sequencer_prefix showOrder s k (Nat.le_of_lt hk) ha
  rw [execShowFrame, requireConfigured_true hc, hq, List.drop_eq_getElem_cons hk', sequencer_cons]
  rw [answerAt_midShow, Nat.add_zero, hf]
  simp [hk']

/-- SETBRT with transmit, its write answered (R122). -/
theorem execSetbrt_answered (lvl : BitVec 16) (o : BusOutcome) (s : State) (hc : s.configured = true)
    (ha : answerAt s 0 = some o) :
    execSetbrt true lvl s = .next (respond (if o = .success then .ok else .errTransmit) (forgetShown
      (record ⟨s.addr, 0x19#8, [(brightOf s.cfg.roundTie lvl).setWidth 8], o⟩
        (afterAnswers 1 (setBright lvl s))))) := by
  have ha' : answerAt (setBright lvl s) 0 = some o := ha
  rw [execSetbrt, requireConfigured_true hc, if_pos rfl, transmitBright, memWrite_eq, ha']
  cases o <;> rfl

/-- SETBRT with transmit, its write never answered (R245). -/
theorem execSetbrt_stuck (lvl : BitVec 16) (s : State) (hc : s.configured = true) (ha : answerAt s 0 = none) :
    execSetbrt true lvl s = .fault (.busNeverAnswers s.seq) := by
  have ha' : answerAt (setBright lvl s) 0 = none := ha
  rw [execSetbrt, requireConfigured_true hc, if_pos rfl, transmitBright, memWrite_eq, ha']
  rfl

theorem onlyBuffers_respond {s t : State} (st : Status) (h : t = { s with lbuf := t.lbuf, rbuf := t.rbuf }) :
    OnlyBuffersChange s (respond st t) st := by
  unfold OnlyBuffersChange
  rw [h]
  rfl

/-- At offset 0 a glyph leaves the right buffer as it is (R162). -/
theorem putGlyph_zero_rbuf (g : Glyph) (s : State) : (putGlyph 0 g s).rbuf = s.rbuf := by
  apply buffer_ext_bits
  intro i k
  rw [putGlyph_rbuf_bit, dif_neg (by simp)]

/-- A glyph write is a buffer effect of the command that makes it; one that ends in an error is SETPAIR's first. -/
theorem putGlyph_effect {i : Instr} {s : State} (xo : Fin 6) (g : Glyph) (st : Status) (hi : i.mnemonic ≠ .clear)
    (hp : st ≠ .ok → i.mnemonic = .setpair ∧ st = .errGlyph ∧ xo = 0) :
    BufferEffect i s (respond st (putGlyph xo g s)) st where
  only := onlyBuffers_respond _ (putGlyph_eq xo g s)
  spare := .inr fun h => putGlyph_spare h
  flags := .inr (.inr (putGlyph_flags xo g s))
  zero h := absurd h hi
  part h := by
    obtain ⟨h₁, h₂, h₃⟩ := hp h
    rw [respond_rbuf, h₃, putGlyph_zero_rbuf]
    exact ⟨h₁, h₂, rfl⟩

/-- Two glyph writes make a buffer effect. -/
theorem putGlyphs_effect {i : Instr} {s : State} (xo xo' : Fin 6) (g g' : Glyph) (hi : i.mnemonic ≠ .clear) :
    BufferEffect i s (respond .ok (putGlyph xo' g' (putGlyph xo g s))) .ok where
  only := onlyBuffers_respond _ (buffersOnly_trans (putGlyph_eq xo g s) (putGlyph_eq xo' g' _))
  spare := .inr fun h => putGlyph_spare (putGlyph_spare h)
  flags := .inr (.inr ⟨(putGlyph_flags xo' g' _).1.trans (putGlyph_flags xo g s).1,
    (putGlyph_flags xo' g' _).2.trans (putGlyph_flags xo g s).2⟩)
  zero h := absurd h hi
  part h := absurd rfl h

/-- SETPAIR with a bad second code: the left matrix is written (R163). -/
theorem execSetpair_secondBad {c0 c1 : BitVec 8} {g : Glyph} {s : State} (hc : s.configured = true)
    (h₀ : lookup s.cfg.font c0.toNat = some g) (h₁ : lookup s.cfg.font c1.toNat = none) :
    execSetpair 2#4 c0 c1 s = .next (respond .errGlyph (putGlyph 0 g s)) := by
  have h₁' : lookup (putGlyph 0 g s).cfg.font c1.toNat = none := by rw [putGlyph_cfg]; exact h₁
  have e := putChar_ok (xo := 0) h₀ (by decide)
  rw [execSetpair, requireConfigured_true hc, if_pos rfl, e]
  show (match putChar 5 c1.toNat (putGlyph 0 g s) with | .error st => raise st (putGlyph 0 g s) | .ok s₂ => returnOk s₂) = _
  rw [putChar_glyph h₁']
  rfl

/-- SETPAIR with two good codes (R163). -/
theorem execSetpair_ok {c0 c1 : BitVec 8} {g g' : Glyph} {s : State} (hc : s.configured = true)
    (h₀ : lookup s.cfg.font c0.toNat = some g) (h₁ : lookup s.cfg.font c1.toNat = some g') :
    execSetpair 2#4 c0 c1 s = .next (respond .ok (putGlyph 5 g' (putGlyph 0 g s))) := by
  have h₁' : lookup (putGlyph 0 g s).cfg.font c1.toNat = some g' := by rw [putGlyph_cfg]; exact h₁
  have e := putChar_ok (xo := 0) h₀ (by decide)
  have e' := putChar_ok (xo := 5) h₁' (by decide)
  rw [execSetpair, requireConfigured_true hc, if_pos rfl, e]
  show (match putChar 5 c1.toNat (putGlyph 0 g s) with | .error st => raise st (putGlyph 0 g s) | .ok s₂ => returnOk s₂) = _
  rw [e']
  rfl

/-- SETPAIR with a bad first code changes nothing (R163). -/
theorem execSetpair_firstBad {c0 c1 : BitVec 8} {s : State} (hc : s.configured = true)
    (h₀ : lookup s.cfg.font c0.toNat = none) : execSetpair 2#4 c0 c1 s = .next (respond .errGlyph s) := by
  rw [execSetpair, requireConfigured_true hc, if_pos rfl, putChar_glyph h₀]
  rfl

/-- SETPAIR with a wrong length changes nothing (R163). -/
theorem execSetpair_length {len : BitVec 4} {c0 c1 : BitVec 8} {s : State} (hc : s.configured = true)
    (h : len ≠ 2#4) : execSetpair len c0 c1 s = .next (respond .errLength s) := by
  rw [execSetpair, requireConfigured_true hc, if_neg h, raise]

/-- SETCHR with a bad code changes nothing, whatever the offset (R160). -/
theorem execSetchr_badCode {xo ch : BitVec 8} {s : State} (hc : s.configured = true)
    (h : lookup s.cfg.font ch.toNat = none) : execSetchr xo ch s = .next (respond .errGlyph s) := by
  rw [execSetchr, requireConfigured_true hc, putChar_glyph h]
  rfl

/-- SETCHR with a good code and a bad offset changes nothing (R160). -/
theorem execSetchr_badOffset {xo ch : BitVec 8} {g : Glyph} {s : State} (hc : s.configured = true)
    (h : lookup s.cfg.font ch.toNat = some g) (hx : 5 < xo.toNat) :
    execSetchr xo ch s = .next (respond .errRange s) := by
  rw [execSetchr, requireConfigured_true hc, putChar_range h hx]
  rfl

/-- SETCHR with good operands writes the glyph (R160). -/
theorem execSetchr_ok {xo ch : BitVec 8} {g : Glyph} {s : State} (hc : s.configured = true)
    (h : lookup s.cfg.font ch.toNat = some g) (hx : xo.toNat < 6) :
    execSetchr xo ch s = .next (respond .ok (putGlyph ⟨xo.toNat, hx⟩ g s)) := by
  rw [execSetchr, requireConfigured_true hc, putChar_ok h hx]
  rfl

/-! One lemma per command, on a configured controller. -/

theorem clear_effect {s t : State} (hc : s.configured = true)
    (h : exec .clear s = .next t) : Effect .clear s t := by
  rw [exec, execClear, requireConfigured_true hc, returnOk] at h
  cases h
  exact .buffers .ok hc (by simp [statusesOf]) rfl (by simp [Instr.mnemonic])
    ⟨rfl, .inl rfl, .inr (.inl rfl), fun _ => clearBuffers_spare s, fun h => absurd rfl h⟩

theorem setbrt_effect {tr : Bool} {lvl : BitVec 16} {s t : State} (hc : s.configured = true)
    (h : exec (.setbrt tr lvl) s = .next t) : Effect (.setbrt tr lvl) s t := by
  cases tr with
  | false =>
    rw [exec, execSetbrt, requireConfigured_true hc] at h
    cases h
    exact .bright lvl rfl hc rfl
  | true =>
    rw [exec] at h
    cases ha : answerAt s 0 with
    | none => rw [execSetbrt_stuck lvl s hc ha] at h; cases h
    | some o =>
      rw [execSetbrt_answered lvl o s hc ha] at h
      cases h
      exact .transmitted lvl o rfl hc ha rfl

theorem setdec_effect {l r : BitVec 2} {s t : State} (hc : s.configured = true)
    (h : exec (.setdec l r) s = .next t) : Effect (.setdec l r) s t := by
  rw [exec, execSetdec, requireConfigured_true hc, returnOk] at h
  cases h
  exact .buffers .ok hc (by simp [statusesOf]) rfl (by simp [Instr.mnemonic])
    ⟨rfl, .inr fun h => setDecimals_spare h, .inl rfl, (by simp [Instr.mnemonic]), fun h => absurd rfl h⟩

theorem setpix_effect {b : Bool} {x y : BitVec 8} {s t : State} (hc : s.configured = true)
    (h : exec (.setpix b x y) s = .next t) : Effect (.setpix b x y) s t := by
  rw [exec] at h
  by_cases hr : x.toNat < 10 ∧ y.toNat < 8
  · rw [execSetpix_inRange b x y s hc hr.1 hr.2] at h
    cases h
    exact .buffers .ok hc (by simp [statusesOf]) rfl (by simp [Instr.mnemonic])
      ⟨onlyBuffers_respond _ (writePix_eq _ _ b s), .inr fun h => writePix_spare h,
        .inr (.inr (writePix_flags _ _ b s)), (by simp [Instr.mnemonic]), fun h => absurd rfl h⟩
  · rw [execSetpix_outOfRange b x y s hc (by omega)] at h
    cases h
    exact .refused .errRange (by decide) (by simp [statusesOf]) rfl

theorem setchr_effect {xo ch : BitVec 8} {s t : State} (hc : s.configured = true)
    (h : exec (.setchr xo ch) s = .next t) : Effect (.setchr xo ch) s t := by
  rw [exec] at h
  cases hg : lookup s.cfg.font ch.toNat with
  | none =>
    rw [execSetchr_badCode hc hg] at h
    exact .refused .errGlyph (by decide) (by simp [statusesOf]) (Host.Outcome.next.inj h).symm
  | some g =>
    by_cases hx : xo.toNat < 6
    · rw [execSetchr_ok hc hg hx] at h
      rw [← Host.Outcome.next.inj h]
      exact .buffers .ok hc (by simp [statusesOf]) rfl (by simp [Instr.mnemonic])
        (putGlyph_effect _ g .ok (by simp [Instr.mnemonic]) fun h => absurd rfl h)
    · rw [execSetchr_badOffset hc hg (by omega)] at h
      exact .refused .errRange (by decide) (by simp [statusesOf]) (Host.Outcome.next.inj h).symm

theorem setpair_effect {len : BitVec 4} {c0 c1 : BitVec 8} {s t : State} (hc : s.configured = true)
    (h : exec (.setpair len c0 c1) s = .next t) : Effect (.setpair len c0 c1) s t := by
  rw [exec] at h
  by_cases hlen : len = 2#4
  case neg =>
    rw [execSetpair_length hc hlen] at h
    exact .refused .errLength (by decide) (by simp [statusesOf]) (Host.Outcome.next.inj h).symm
  subst hlen
  cases hg : lookup s.cfg.font c0.toNat with
  | none =>
    rw [execSetpair_firstBad hc hg] at h
    exact .refused .errGlyph (by decide) (by simp [statusesOf]) (Host.Outcome.next.inj h).symm
  | some g =>
    cases hg' : lookup s.cfg.font c1.toNat with
    | none =>
      rw [execSetpair_secondBad hc hg hg'] at h
      rw [← Host.Outcome.next.inj h]
      exact .buffers .errGlyph hc (by simp [statusesOf]) rfl (by simp [Instr.mnemonic])
        (putGlyph_effect 0 g .errGlyph (by simp [Instr.mnemonic]) fun _ => ⟨rfl, rfl, rfl⟩)
    | some g' =>
      rw [execSetpair_ok hc hg hg'] at h
      rw [← Host.Outcome.next.inj h]
      exact .buffers .ok hc (by simp [statusesOf]) rfl (by simp [Instr.mnemonic])
        (putGlyphs_effect 0 5 g g' (by simp [Instr.mnemonic]))

/-- When not all of the next six answers are successes, there is a first one that is not. -/
theorem exists_first_not_success {s : State} (h : ¬ ∀ k < 6, answerAt s k = some .success) :
    ∃ k, k < 6 ∧ answerAt s k ≠ some .success ∧ ∀ j < k, answerAt s j = some .success := by
  classical
  have hex : ∃ k, k < 6 ∧ answerAt s k ≠ some .success := by simpa using h
  refine ⟨Nat.find hex, (Nat.find_spec hex).1, (Nat.find_spec hex).2, fun j hj => ?_⟩
  by_contra hn
  exact Nat.find_min hex hj ⟨Nat.lt_trans hj (Nat.find_spec hex).1, hn⟩

theorem showFrame_effect {s t : State} (hc : s.configured = true)
    (h : exec .showFrame s = .next t) : Effect .showFrame s t := by
  rw [exec] at h
  by_cases hall : ∀ k < 6, answerAt s k = some .success
  · rw [execShowFrame_ok s hc hall] at h
    cases h
    exact .shown rfl hc hall rfl
  · obtain ⟨k, hk, hne, hmin⟩ := exists_first_not_success hall
    cases hf : answerAt s k with
    | none =>
      rw [execShowFrame_stuck s k hc hk hmin hf] at h
      exact absurd h (by simp)
    | some o =>
      cases o with
      | success => exact absurd hf hne
      | failure =>
        rw [execShowFrame_fails s k hc hk hmin hf] at h
        exact .showFailed k rfl hc hk hmin hf (Host.Outcome.next.inj h).symm

/-- The inversion lemma: a command that answers a next state had one of these effects. -/
theorem exec_effect {i : Instr} {s t : State} (h : exec i s = .next t) : Effect i s t := by
  by_cases hcon : i.mnemonic = .construct
  · cases i <;> try cases hcon
    rename_i addr lvl
    by_cases hl : legalAddress addr = true
    · rw [exec, execConstruct, if_pos hl, returnOk] at h
      cases h
      exact .constructed addr lvl rfl hl rfl
    · rw [exec, execConstruct, if_neg hl, raise] at h
      cases h
      exact .refused .errAddress (by decide) (by simp [statusesOf]) rfl
  by_cases hc : s.configured = true
  case neg =>
    rw [exec_unconfigured i s (by simpa using hc) hcon] at h
    cases h
    refine .refused .errUnconfigured (by decide) ?_ rfl
    cases i <;> simp [statusesOf, Instr.mnemonic] at hcon ⊢
    rename_i t _
    cases t <;> simp
  cases i with
  | construct _ _ => exact absurd rfl hcon
  | clear => exact clear_effect hc h
  | setbrt _ _ => exact setbrt_effect hc h
  | setdec _ _ => exact setdec_effect hc h
  | setpix _ _ _ => exact setpix_effect hc h
  | setchr _ _ => exact setchr_effect hc h
  | setpair _ _ _ => exact setpair_effect hc h
  | showFrame => exact showFrame_effect hc h

end Sys2Proof.Machine
end

