-- ==== Sys2Proof/Laws/Encoding.lean ====
section
/-! SUPPORT. Words and fields as numbers: the value of each encoding, of each field, and of a word under a mask. With them
a question about the encoder or the decoder is one of `/`, `%` and `omega`. -/

namespace Sys2Proof

theorem append_toNat {m n : Nat} (x : BitVec m) (y : BitVec n) : (x ++ y).toNat = x.toNat * 2 ^ n + y.toNat := by
  rw [BitVec.toNat_append, ← Nat.shiftLeft_add_eq_or_of_lt y.isLt, Nat.shiftLeft_eq]

theorem field_toNat (w : Word) (lo n : Nat) : (field w lo n).toNat = w.toNat / 2 ^ lo % 2 ^ n := by
  simp [field, BitVec.extractLsb'_toNat, Nat.shiftRight_eq_div_pow]

theorem field_eq_iff (w : Word) (lo n : Nat) (v : BitVec n) : field w lo n = v ↔ w.toNat / 2 ^ lo % 2 ^ n = v.toNat := by
  rw [← field_toNat, BitVec.toNat_inj]

theorem bit16_toNat (w : Word) : (w.getLsbD 16).toNat = w.toNat / 2 ^ 16 % 2 := by
  rw [BitVec.getLsbD, Nat.testBit_eq_decide_div_mod_eq]
  rcases Nat.mod_two_eq_zero_or_one (w.toNat / 2 ^ 16) with h | h <;> rw [h] <;> rfl

theorem ofBool_toNat (b : Bool) : (BitVec.ofBool b).toNat = b.toNat := by cases b <;> rfl

theorem encode_construct_toNat (a : BitVec 8) (l : BitVec 16) :
    (encode (.construct a l)).toNat = 0x10000000 + a.toNat * 2 ^ 16 + l.toNat := by
  simp only [encode]
  simp only [append_toNat, BitVec.toNat_ofNat]
  omega

theorem encode_clear_toNat : (encode .clear).toNat = 0x20000000 := rfl

theorem encode_setbrt_toNat (t : Bool) (l : BitVec 16) :
    (encode (.setbrt t l)).toNat = 0x30000000 + t.toNat * 2 ^ 16 + l.toNat := by
  simp only [encode]
  simp only [append_toNat, ofBool_toNat, BitVec.toNat_ofNat]
  omega

theorem encode_setdec_toNat (l r : BitVec 2) :
    (encode (.setdec l r)).toNat = 0x40000000 + l.toNat * 2 ^ 2 + r.toNat := by
  simp only [encode]
  simp only [append_toNat, BitVec.toNat_ofNat]
  omega

theorem encode_setpix_toNat (s : Bool) (x y : BitVec 8) :
    (encode (.setpix s x y)).toNat = 0x50000000 + s.toNat * 2 ^ 16 + x.toNat * 2 ^ 8 + y.toNat := by
  simp only [encode]
  simp only [append_toNat, ofBool_toNat, BitVec.toNat_ofNat]
  omega

theorem encode_setchr_toNat (xo ch : BitVec 8) :
    (encode (.setchr xo ch)).toNat = 0x60000000 + xo.toNat * 2 ^ 8 + ch.toNat := by
  simp only [encode]
  simp only [append_toNat, BitVec.toNat_ofNat]
  omega

theorem encode_setpair_toNat (len : BitVec 4) (c0 c1 : BitVec 8) :
    (encode (.setpair len c0 c1)).toNat = 0x70000000 + len.toNat * 2 ^ 16 + c0.toNat * 2 ^ 8 + c1.toNat := by
  simp only [encode]
  simp only [append_toNat, BitVec.toNat_ofNat]
  omega

theorem encode_showFrame_toNat : (encode .showFrame).toNat = 0x80000000 := rfl

/-- A mask of R82 keeps the bits from `n` up: a word meets the row when those bits are the row's. -/
theorem and_mask_eq_iff (w m M : Word) (n : Nat) (hM : M = BitVec.allOnes 32 <<< n) (hm : m.toNat % 2 ^ n = 0) :
    w &&& M = m ↔ w.toNat / 2 ^ n = m.toNat / 2 ^ n := by
  subst hM
  have e : (w &&& (BitVec.allOnes 32 <<< n)).toNat = w.toNat / 2 ^ n * 2 ^ n := by
    have h : w &&& (BitVec.allOnes 32 <<< n) = (w >>> n) <<< n := by
      apply BitVec.eq_of_getLsbD_eq
      intro j hj
      by_cases h : j < n
      · simp [hj, h]
      · have h₁ : n + (j - n) = j := by omega
        have h₂ : j - n < 32 := by omega
        simp only [BitVec.getLsbD_and, BitVec.getLsbD_shiftLeft, BitVec.getLsbD_allOnes, BitVec.getLsbD_ushiftRight, h₁]
        simp [hj, h, h₂]
    rw [h]
    simp [Nat.shiftLeft_eq, Nat.shiftRight_eq_div_pow]
    exact Nat.lt_of_le_of_lt (Nat.div_mul_le_self _ _) w.isLt
  have em : m.toNat / 2 ^ n * 2 ^ n = m.toNat := Nat.div_mul_cancel (Nat.dvd_of_mod_eq_zero hm)
  constructor
  · intro h
    rw [← BitVec.toNat_inj, e] at h
    rw [← h, Nat.mul_div_cancel _ (Nat.two_pow_pos n)]
  · intro h
    apply BitVec.eq_of_toNat_eq
    rw [e, h, em]

/-- What a word that decodes is, by its opcode and the zeros above its fields (R83). -/
theorem decode_ok_cases {w : Word} {i : Instr} (h : decode w = .ok i) :
    (w.toNat / 2 ^ 28 % 2 ^ 4 = 1 ∧ w.toNat / 2 ^ 24 % 2 ^ 4 = 0 ∧ i = .construct (field w 16 8) (field w 0 16)) ∨
    (w.toNat / 2 ^ 28 % 2 ^ 4 = 2 ∧ w.toNat / 2 ^ 0 % 2 ^ 28 = 0 ∧ i = .clear) ∨
    (w.toNat / 2 ^ 28 % 2 ^ 4 = 3 ∧ w.toNat / 2 ^ 17 % 2 ^ 11 = 0 ∧ i = .setbrt (w.getLsbD 16) (field w 0 16)) ∨
    (w.toNat / 2 ^ 28 % 2 ^ 4 = 4 ∧ w.toNat / 2 ^ 4 % 2 ^ 24 = 0 ∧ i = .setdec (field w 2 2) (field w 0 2) ∧
      field w 2 2 ≠ 1#2 ∧ field w 0 2 ≠ 1#2) ∨
    (w.toNat / 2 ^ 28 % 2 ^ 4 = 5 ∧ w.toNat / 2 ^ 17 % 2 ^ 11 = 0 ∧
      i = .setpix (w.getLsbD 16) (field w 8 8) (field w 0 8)) ∨
    (w.toNat / 2 ^ 28 % 2 ^ 4 = 6 ∧ w.toNat / 2 ^ 16 % 2 ^ 12 = 0 ∧ i = .setchr (field w 8 8) (field w 0 8)) ∨
    (w.toNat / 2 ^ 28 % 2 ^ 4 = 7 ∧ w.toNat / 2 ^ 20 % 2 ^ 8 = 0 ∧
      i = .setpair (field w 16 4) (field w 8 8) (field w 0 8)) ∨
    (w.toNat / 2 ^ 28 % 2 ^ 4 = 8 ∧ w.toNat / 2 ^ 0 % 2 ^ 28 = 0 ∧ i = .showFrame) := by
  unfold decode at h
  simp only [field_eq_iff, ne_eq] at h
  split_ifs at h <;> simp_all [field_eq_iff]

end Sys2Proof
end

