-- ==== Sys2Proof/Laws/PerInstr.lean ====
section
/-! SUPPORT. One lemma per constructor: the encoding of each command meets the `match` and `mask` of its row (R82). -/

namespace Sys2Proof.Laws.OpcodeRow

/-- The word of a command lies in its own row of the opcode map. -/
def Statement (i : Instr) : Prop := encode i &&& i.mnemonic.maskWord = i.mnemonic.matchWord

theorem construct (addr : BitVec 8) (lvl : BitVec 16) : Statement (.construct addr lvl) := by
  refine (and_mask_eq_iff _ _ _ 24 rfl (by simp [Instr.mnemonic, Mnemonic.matchWord])).2 ?_
  rw [encode_construct_toNat]
  show _ = 0x10000000 / 2 ^ 24
  omega

theorem clear : Statement .clear := rfl

theorem setbrt (t : Bool) (lvl : BitVec 16) : Statement (.setbrt t lvl) := by
  refine (and_mask_eq_iff _ _ _ 17 rfl (by simp [Instr.mnemonic, Mnemonic.matchWord])).2 ?_
  rw [encode_setbrt_toNat]
  show _ = 0x30000000 / 2 ^ 17
  have := t.toNat_lt
  omega

theorem setdec (l r : BitVec 2) : Statement (.setdec l r) := by
  refine (and_mask_eq_iff _ _ _ 4 rfl (by simp [Instr.mnemonic, Mnemonic.matchWord])).2 ?_
  rw [encode_setdec_toNat]
  show _ = 0x40000000 / 2 ^ 4
  omega

theorem setpix (s : Bool) (x y : BitVec 8) : Statement (.setpix s x y) := by
  refine (and_mask_eq_iff _ _ _ 17 rfl (by simp [Instr.mnemonic, Mnemonic.matchWord])).2 ?_
  rw [encode_setpix_toNat]
  show _ = 0x50000000 / 2 ^ 17
  have := s.toNat_lt
  omega

theorem setchr (xo ch : BitVec 8) : Statement (.setchr xo ch) := by
  refine (and_mask_eq_iff _ _ _ 16 rfl (by simp [Instr.mnemonic, Mnemonic.matchWord])).2 ?_
  rw [encode_setchr_toNat]
  show _ = 0x60000000 / 2 ^ 16
  omega

theorem setpair (len : BitVec 4) (c0 c1 : BitVec 8) : Statement (.setpair len c0 c1) := by
  refine (and_mask_eq_iff _ _ _ 20 rfl (by simp [Instr.mnemonic, Mnemonic.matchWord])).2 ?_
  rw [encode_setpair_toNat]
  show _ = 0x70000000 / 2 ^ 20
  omega

theorem showFrame : Statement .showFrame := rfl

end Sys2Proof.Laws.OpcodeRow
end

