-- ==== Sys2Proof/Laws/Progress.lean ====
section
/-! SUPPORT. When a command answers a next state, which answers of the bus it consumes, and what it adds to TRACE. -/

namespace Sys2Proof.Machine

open Sys2Proof.Claims

/-- Only an unanswered write keeps a command from a next state (R12, R245). -/
theorem exec_next_of_answered (i : Instr) (s : State) (h : ∀ k < writesOf i, answerAt s k ≠ none) :
    ∃ t, exec i s = .next t := by
  by_cases hc : s.configured = true
  case neg =>
    by_cases hi : i.mnemonic = .construct
    · cases i <;> cases hi
      rw [exec, execConstruct]
      split <;> exact ⟨_, rfl⟩
    · exact ⟨_, exec_unconfigured i s (by simpa using hc) hi⟩
  cases i with
  | construct addr lvl =>
    rw [exec, execConstruct]
    split <;> exact ⟨_, rfl⟩
  | clear => exact ⟨_, requireConfigured_true hc _⟩
  | setbrt t l =>
    cases t
    · exact ⟨_, requireConfigured_true hc _⟩
    · obtain ⟨o, ho⟩ := Option.ne_none_iff_exists'.1 (h 0 (by simp [writesOf]))
      exact ⟨_, execSetbrt_answered l o s hc ho⟩
  | setdec l r => exact ⟨_, requireConfigured_true hc _⟩
  | setpix b x y =>
    by_cases hr : x.toNat < 10 ∧ y.toNat < 8
    · exact ⟨_, execSetpix_inRange b x y s hc hr.1 hr.2⟩
    · exact ⟨_, execSetpix_outOfRange b x y s hc (by omega)⟩
  | setchr xo ch =>
    cases hg : lookup s.cfg.font ch.toNat with
    | none => exact ⟨_, execSetchr_badCode hc hg⟩
    | some g =>
      by_cases hx : xo.toNat < 6
      · exact ⟨_, execSetchr_ok hc hg hx⟩
      · exact ⟨_, execSetchr_badOffset hc hg (by omega)⟩
  | setpair n c d =>
    by_cases hn : n = 2#4
    case neg => exact ⟨_, execSetpair_length hc hn⟩
    subst hn
    cases hg : lookup s.cfg.font c.toNat with
    | none => exact ⟨_, execSetpair_firstBad hc hg⟩
    | some g =>
      cases hg' : lookup s.cfg.font d.toNat with
      | none => exact ⟨_, execSetpair_secondBad hc hg hg'⟩
      | some g' => exact ⟨_, execSetpair_ok hc hg hg'⟩
  | showFrame =>
    by_cases hall : ∀ k < 6, answerAt s k = some .success
    · exact ⟨_, execShowFrame_ok s hc hall⟩
    · obtain ⟨k, hk, hne, hmin⟩ := exists_first_not_success hall
      obtain ⟨o, ho⟩ := Option.ne_none_iff_exists'.1 (h k hk)
      cases o with
      | success => exact absurd ho hne
      | failure => exact ⟨_, execShowFrame_fails s k hc hk hmin ho⟩

/-- A command consumes at most six answers; the later ones stand as they were. -/
theorem exec_answerAt {i : Instr} {s t : State} (h : exec i s = .next t) :
    ∃ n ≤ 6, ∀ k, answerAt t k = answerAt s (n + k) := by
  have shift : ∀ n, t.busScript = (afterAnswers n s).busScript → t.busDraws = (afterAnswers n s).busDraws →
      ∀ k, answerAt t k = answerAt s (n + k) := fun n h₁ h₂ k => by
    rw [← answerAt_afterAnswers]
    exact answerAt_congr h₁ h₂ k
  cases exec_effect h with
  | refused st h hm ht => exact ⟨0, by omega, shift 0 (by simp [ht]) (by simp [ht])⟩
  | constructed _ _ hi _ ht => exact ⟨0, by omega, shift 0 (by simp [ht]) (by simp [ht])⟩
  | buffers st hc hm hw hi he => exact ⟨0, by omega, shift 0 (by rw [he.only]; simp) (by rw [he.only]; simp)⟩
  | bright _ hi _ ht => exact ⟨0, by omega, shift 0 (by simp [ht]) (by simp [ht])⟩
  | transmitted l o hi hc _ ht => exact ⟨1, by omega, shift 1 (by simp [ht]) (by simp [ht])⟩
  | shown hi hc _ ht => exact ⟨6, by omega, shift 6 (by simp [ht]) (by simp [ht])⟩
  | showFailed k hi hc hk _ _ ht => exact ⟨k + 1, by omega, shift (k + 1) (by simp [ht]) (by simp [ht])⟩

/-- The writes of a frame are of the register map, at the frame's address (R52, R53). -/
theorem frameWrites_mapped (a : BitVec 7) (f : Frame) :
    ∀ e ∈ frameWrites a f, e.addr = a ∧ InRegisterMap e.reg e.bytes := by
  intro e he
  have hb : f.bright.toNat ≤ 127 := by have := f.bright.isLt; omega
  simp only [frameWrites, List.mem_cons, List.not_mem_nil, or_false] at he
  rcases he with rfl | rfl | rfl | rfl | rfl | rfl <;> simp [InRegisterMap]
  omega

theorem failedFrameWrites_mapped (a : BitVec 7) (f : Frame) (k : Nat) :
    ∀ e ∈ failedFrameWrites a f k, e.addr = a ∧ InRegisterMap e.reg e.bytes := by
  intro e he
  rcases List.mem_append.1 he with h | h
  · exact frameWrites_mapped a f e (List.mem_of_mem_take h)
  · simp only [List.mem_map, Option.mem_toList] at h
    obtain ⟨e', h, rfl⟩ := h
    exact frameWrites_mapped a f e' (List.mem_of_getElem? h)

end Sys2Proof.Machine
end

