-- ==== Sys2Proof/Tests/Slice0.lean ====
section
/-! SUPPORT. Small tests with expected values from spec/95_test_vectors.md and the rules, and for each obligation with
hypotheses a state and operands that meet them (`witness_…`). -/

namespace Sys2Proof.Tests

open Sys2Proof Sys2Proof.Machine Sys2Proof.Claims

/-! ### States -/

/-- TFONT, the made-up font of 95_test_vectors.md section 0. -/
def tfont : FontRom := Vector.ofFn fun a => BitVec.ofNat 8 ((a.val / 5 + 32 + 13 * (a.val % 5)) % 128)

def clearBuffer : Buffer := Vector.replicate 8 0#8

/-- A configured controller at 0x61 with brightness 13 (95_test_vectors.md section 0). -/
def start (lbuf rbuf : Buffer) (answers : List (Option BusOutcome)) : State where
  configured := true
  addr := 0x61#7
  bright := 13#7
  lbuf := lbuf
  rbuf := rbuf
  seq := none
  trace := []
  shown := none
  responses := []
  cfg := ⟨tfont, .bit6, .toEven⟩
  port := []
  busScript := answers
  busDraws := 0
  resets := 0

def clear (answers : List (Option BusOutcome)) : State := start clearBuffer clearBuffer answers

/-- The same before CONSTRUCT. -/
def unconfigured : State := { clear [] with configured := false }

/-- Every pixel and both decimal points lit (vectors H4 to H9). -/
def lit : State :=
  start #v[0xFF#8, 0xFF#8, 0xFF#8, 0xFF#8, 0xFF#8, 0#8, 0#8, 0x40#8]
    #v[0x1F#8, 0x1F#8, 0x1F#8, 0x1F#8, 0x1F#8, 0x1F#8, 0x5F#8, 0x1F#8] []

/-- The step after the host presents the word `w` answers a next state with `p`. -/
def stepGives (w : Nat) (s : State) (p : State → Bool) : Bool :=
  match step (s.withFetchWord 32 w) with
  | .next t => p t
  | .fault _ => false
  | .refused _ => false

def successes (n : Nat) : List (Option BusOutcome) := List.replicate n (some .success)

/-! ### Well-formedness: the one check, on each field -/

theorem test_illformed_setdec_left : Instr.wellFormed (.setdec 0b01#2 0b00#2) = false := by decide
theorem test_illformed_setdec_right : Instr.wellFormed (.setdec 0b00#2 0b01#2) = false := by decide
theorem test_wellformed_setdec_rest :
    ∀ l ∈ [0b00#2, 0b10#2, 0b11#2], ∀ r ∈ [0b00#2, 0b10#2, 0b11#2], Instr.wellFormed (.setdec l r) = true := by
  decide

/-! ### Decoding: words written out from the format tables of 30_encoding.md R81 -/

theorem test_decode_construct : decode 0b0001_0000_01100001_0000000000011010#32 = .ok (.construct 0x61#8 0x001A#16) := by
  rfl
theorem test_decode_clear : decode 0b0010_0000000000000000000000000000#32 = .ok .clear := by rfl
theorem test_decode_setbrt : decode 0b0011_00000000000_1_0000000010000000#32 = .ok (.setbrt true 0x0080#16) := by rfl
theorem test_decode_setdec : decode 0b0100_000000000000000000000000_10_11#32 = .ok (.setdec 0b10#2 0b11#2) := by rfl
theorem test_decode_setpix : decode 0b0101_00000000000_1_00000111_00000010#32 = .ok (.setpix true 7#8 2#8) := by rfl
theorem test_decode_setchr : decode 0b0110_000000000000_00000101_01000001#32 = .ok (.setchr 5#8 65#8) := by rfl
theorem test_decode_setpair : decode 0b0111_00000000_0010_00110001_00110010#32 = .ok (.setpair 2#4 0x31#8 0x32#8) := by
  rfl
theorem test_decode_show : decode 0b1000_0000000000000000000000000000#32 = .ok .showFrame := by rfl
theorem test_decode_table_word : decodeTableWord 32 0x50010702 = some (.setpix true 7#8 2#8) := by rfl

/-- The illegal words of 95_test_vectors.md section 2.9. -/
theorem test_decode_illegal :
    ∀ w ∈ [0x00000000, 0x0FFFFFFF, 0x90000000, 0xA0000000, 0xB0000000, 0xC0000000, 0xD0000000, 0xE0000000, 0xF0000000,
      0xFFFFFFFF, 0x1100001A, 0x20000001, 0x30020000, 0x40000010, 0x40000004, 0x40000001, 0x40000005, 0x50020000,
      0x60010000, 0x70100000, 0x80000001], decodeTableWord 32 w = none := by decide

/-! ### One step of each command -/

/-- K10. -/
theorem test_construct : stepGives 0x10620080 lit (fun t =>
    t.configured && t.addr == 0x62#7 && t.bright == 64#7 && t.lbuf == clearBuffer && t.rbuf == clearBuffer &&
    t.responses == [.ok]) = true := by decide
/-- K6: all eight bits of the address are compared. -/
theorem test_construct_address : stepGives 0x10E1001A unconfigured (fun t =>
    !t.configured && t.responses == [.errAddress]) = true := by decide

/-- L1. -/
theorem test_clear : stepGives 0x20000000 lit (fun t =>
    t.lbuf == clearBuffer && t.rbuf == clearBuffer && t.bright == 13#7 && t.responses == [.ok]) = true := by decide

/-- B31. -/
theorem test_setbrt_transmit : stepGives 0x30010080 (clear (successes 1)) (fun t =>
    t.bright == 64#7 && t.trace == [⟨0x61#7, 0x19#8, [0x40#8], .success⟩] && t.responses == [.ok]) = true := by decide
/-- B32: the brightness stays after a failed write. -/
theorem test_setbrt_failure : stepGives 0x30010100 (clear [some .failure]) (fun t =>
    t.bright == 127#7 && t.trace == [⟨0x61#7, 0x19#8, [0x7F#8], .failure⟩] && t.responses == [.errTransmit]) = true := by
  decide

/-- D3: the pixels of row 6 stay. -/
theorem test_setdec : stepGives 0x40000002 lit (fun t =>
    t.lbuf == lit.lbuf && t.rbuf == lit.rbuf.set 6 0x1F#8 && t.responses == [.ok]) = true := by decide
/-- D11: RDP_BIT = 7. -/
theorem test_setdec_bit7 : stepGives 0x40000003 { clear [] with cfg := ⟨tfont, .bit7, .toEven⟩ } (fun t =>
    t.lbuf == clearBuffer && t.rbuf == clearBuffer.set 6 0x80#8) = true := by decide

/-- S7: byte y, bit x - 5. -/
theorem test_setpix_right : stepGives 0x50010702 (clear []) (fun t =>
    t.lbuf == clearBuffer && t.rbuf == clearBuffer.set 2 0x04#8 && t.responses == [.ok]) = true := by decide
/-- S12. -/
theorem test_setpix_range : stepGives 0x50010A00 (clear []) (fun t =>
    t.lbuf == clearBuffer && t.rbuf == clearBuffer && t.responses == [.errRange]) = true := by decide

/-- TFONT('A') and TFONT('1') (95_test_vectors.md section 0). -/
theorem test_lookup :
    lookup tfont 65 = some #v[0x41#8, 0x4E#8, 0x5B#8, 0x68#8, 0x75#8] ∧
    lookup tfont 49 = some #v[0x31#8, 0x3E#8, 0x4B#8, 0x58#8, 0x65#8] := by
  constructor <;> rw [lookup, dif_pos (by omega)] <;> simp [fontRead, tfont] <;> decide

/-- H6: a character over both matrices, flags kept. -/
theorem test_setchr : ∃ t, exec (.setchr 2#8 65#8) lit = .next t ∧
    t.lbuf = #v[0xFF#8, 0xFF#8, 0x41#8, 0x4E#8, 0x5B#8, 0#8, 0#8, 0x40#8] ∧
    t.rbuf = #v[0x1E#8, 0x1C#8, 0x1E#8, 0x1D#8, 0x1E#8, 0x1F#8, 0x5F#8, 0x1C#8] ∧ t.responses = [.ok] :=
  ⟨_, execSetchr_ok (s := lit) (xo := 2#8) (ch := 65#8) rfl test_lookup.1 (by decide), by decide +kernel⟩
/-- H21: the lookup comes before the offset. -/
theorem test_setchr_order : stepGives 0x6000067F lit (fun t =>
    t.lbuf == lit.lbuf && t.rbuf == lit.rbuf && t.responses == [.errGlyph]) = true := by decide

/-- R10 from the flags of R2: `SETPAIR "A1"` keeps both decimal points (TFONT, the rows of section 0). -/
theorem test_setpair : ∃ t,
    exec (.setpair 2#4 65#8 49#8) (start (clearBuffer.set 7 0x40#8) (clearBuffer.set 6 0x40#8) []) = .next t ∧
    t.lbuf = #v[0x41#8, 0x4E#8, 0x5B#8, 0x68#8, 0x75#8, 0#8, 0#8, 0x40#8] ∧
    t.rbuf = #v[0x15#8, 0x06#8, 0x12#8, 0x0E#8, 0x0B#8, 0x13#8, 0x5C#8, 0#8] ∧ t.responses = [.ok] :=
  ⟨_, execSetpair_ok (s := start (clearBuffer.set 7 0x40#8) (clearBuffer.set 6 0x40#8) []) (c0 := 65#8) (c1 := 49#8) rfl
    test_lookup.1 test_lookup.2, by decide +kernel⟩
/-- R9: the left matrix is written, the right one is not. -/
theorem test_setpair_second_bad : ∃ t, exec (.setpair 2#4 49#8 0x1F#8) (clear []) = .next t ∧
    t.lbuf = #v[0x31#8, 0x3E#8, 0x4B#8, 0x58#8, 0x65#8, 0#8, 0#8, 0#8] ∧ t.rbuf = clearBuffer ∧
    t.responses = [.errGlyph] :=
  ⟨_, execSetpair_secondBad (s := clear []) (c0 := 49#8) (c1 := 0x1F#8) rfl test_lookup.2
    (lookup_eq_none_of _ (by decide)), by decide +kernel⟩

/-- W4. -/
theorem test_show : stepGives 0x80000000 (clear (successes 6)) (fun t =>
    t.trace == [⟨0x61#7, 0x0E#8, List.replicate 8 0#8, .success⟩, ⟨0x61#7, 0x01#8, List.replicate 8 0#8, .success⟩,
      ⟨0x61#7, 0x00#8, [0x18#8], .success⟩, ⟨0x61#7, 0x0D#8, [0x0E#8], .success⟩,
      ⟨0x61#7, 0x19#8, [0x0D#8], .success⟩, ⟨0x61#7, 0x0C#8, [0x01#8], .success⟩] &&
    t.shown == some ⟨clearBuffer, clearBuffer, 13#7⟩ && t.responses == [.ok]) = true := by decide
/-- W2 with k = 1. -/
theorem test_show_failure : stepGives 0x80000000 (clear [some .success, some .failure, some .success]) (fun t =>
    t.trace == [⟨0x61#7, 0x0E#8, List.replicate 8 0#8, .success⟩, ⟨0x61#7, 0x01#8, List.replicate 8 0#8, .failure⟩] &&
    t.shown == none && t.busScript == [some .success] && t.responses == [.errTransmit]) = true := by decide

/-- Section 2.10: the decode ranks above the CONFIGURED check, and that above the operand checks. -/
theorem test_priority :
    stepGives 0x90000000 unconfigured (fun t => t.responses == [.errIllegal]) = true ∧
    stepGives 0x50010A00 unconfigured (fun t => t.responses == [.errUnconfigured]) = true := by decide

/-- The rational levels of 95_test_vectors.md section 2.2, half to even. -/
theorem test_brightness_ties :
    brightOfRatio .toEven 1 10 = 13 ∧ brightOfRatio .toEven 1 254 = 0 ∧ brightOfRatio .toEven 3 254 = 2 ∧
    brightOfRatio .toEven 5 254 = 2 ∧ brightOfRatio .toEven 127 254 = 64 ∧ brightOfRatio .toEven 2 1 = 127 ∧
    brightOfRatio .toEven (-3) 1 = 0 := by decide

/-- Lines of 95_test_vectors.md with their words. -/
def lineWord (cs : String) : Option Word :=
  match Asm.read cs.toList with
  | .line l => some l.word
  | .empty => none
  | .bad => none

theorem test_read_config_lines :
    lineWord "CONSTRUCT 0x61, 0.1" = some 0x1061001A#32 ∧ lineWord "CONSTRUCT 0x63, -0.5" = some 0x1063FF80#32 ∧
    lineWord "CONSTRUCT 0x64" = some 0x1064001A#32 ∧ lineWord "SETBRT 0.5, T ; now" = some 0x30010080#32 ∧
    lineWord "SETBRT #-1" = some 0x3000FFFF#32 := by decide +kernel
theorem test_read_buffer_lines :
    lineWord "CLEAR" = some 0x20000000#32 ∧ lineWord "SETDEC OFF, ON" = some 0x4000000B#32 ∧
    lineWord "SETDEC L=ON" = some 0x4000000C#32 ∧ lineWord "SETPIX 7, 2, 1" = some 0x50010702#32 ∧
    lineWord "SETPIX 256, 2, 1" = none ∧ lineWord "; only a comment" = none ∧ lineWord "SHOW" = some 0x80000000#32 := by
  decide +kernel
theorem test_read_character_lines :
    lineWord "SETCHR 5, 'A'" = some 0x60000541#32 ∧ lineWord "SETCHR 0, 31" = some 0x6000001F#32 ∧
    lineWord "SETPAIR \"12\"" = some 0x70023132#32 ∧ lineWord "SETPAIR \"abc\"" = some 0x70036162#32 ∧
    lineWord "SETPAIR \"1\"" = some 0x70013100#32 ∧ lineWord "SETPAIR \"\"" = some 0x70000000#32 ∧
    lineWord "SETPAIR 2, '1', 0x32" = some 0x70023132#32 := by decide +kernel

/-! ### Witnesses: the hypotheses of the statements can be met -/

theorem witness_DecodeUndoesEncode : Instr.wellFormed (.setdec 0b10#2 0b11#2) = true := by decide

theorem witness_EncodeUndoesDecode : decode 0x5001FF08#32 = .ok (.setpix true 0xFF#8 8#8) := by rfl

theorem witness_DecodeFollowsMatchAndMask : Spells 0x4000000B#32 .setdec ∧ ¬ Spells 0x40000001#32 .setdec := by
  simp only [Spells]
  decide

theorem witness_IllegalWordOnlyReturnsItsStatus :
    ({ lit with port := [.word 0x90000000#32] } : State).port = .word 0x90000000#32 :: [] ∧
    decode 0x90000000#32 = .error .reservedOpcode := ⟨rfl, rfl⟩

theorem witness_AssemblyLinesGiveTheTabulatedWords :
    0 < 10 ∧ (Asm.quantise (.fraction 1 10)).toNat = 0x001A ∧ (Asm.quantise (.fraction (-1) 2)).toNat = 0xFF80 ∧
    (Asm.quantise (.raw (-1))).toNat = 0xFFFF := by decide

theorem witness_StepRunsTheDecodedCommand :
    ({ lit with port := [.word 0x20000000#32, .reset] } : State).port = .word 0x20000000#32 :: [.reset] ∧
    decode 0x20000000#32 = .ok .clear ∧ Instr.wellFormed .clear = true ∧ lit.port = [] ∧
    ({ lit with port := [.reset, .word 0#32] } : State).port = .reset :: [.word 0#32] := ⟨rfl, rfl, rfl, rfl, rfl⟩

theorem witness_ResetLeavesTheControllerUnconfigured :
    ({ lit with port := [.reset] } : State).port = .reset :: [] := rfl

theorem witness_ConstructConfiguresOrChangesNothing :
    (0x64#8 ≠ 0x61#8 ∧ 0x64#8 ≠ 0x62#8 ∧ 0x64#8 ≠ 0x63#8) ∧
    (∀ addr lvl, Instr.showFrame ≠ .construct addr lvl) ∧ unconfigured.configured = false :=
  ⟨by decide, fun _ _ => by simp, rfl⟩

theorem witness_BrightnessIsTheClampedRounding :
    0 < 2 ∧ 2 * (1 - roundRatio .toEven 1 2 * 2) = 2 ∧ 2 * (3 - roundRatio .toEven 3 2 * 2) = -2 ∧
    2 * (1 - roundRatio .upward 1 2 * 2) = -2 := by decide

theorem witness_SetBrightnessStoresAndTransmits :
    unconfigured.configured = false ∧ (clear [some .success]).configured = true ∧
    answerAt (clear [some .success]) 0 = some .success ∧ answerAt (clear [some .failure]) 0 = some .failure :=
  ⟨rfl, rfl, rfl, rfl⟩

theorem witness_ClearZeroesBothBuffers : unconfigured.configured = false ∧ lit.configured = true := ⟨rfl, rfl⟩

theorem witness_SetDecimalWritesOnlyTheFlags : unconfigured.configured = false ∧ lit.configured = true := ⟨rfl, rfl⟩

theorem witness_SetPixelWritesOneBit :
    unconfigured.configured = false ∧ lit.configured = true ∧ 9 < (10#8).toNat ∧ 7 < (8#8).toNat ∧
    (9#8).toNat ≤ 9 ∧ (7#8).toNat ≤ 7 := by decide

theorem witness_PixelWritesCommuteAndLastWins :
    lit.configured = true ∧ (9#8).toNat ≤ 9 ∧ (7#8).toNat ≤ 7 ∧ (9#8, 7#8) ≠ (5#8, 7#8) ∧
    pix (clear []) 9 7 = false ∧ ∃ t u, exec (.setpix true 9#8 7#8) lit = .next t ∧
      exec (.setpix false 9#8 7#8) t = .next u :=
  ⟨rfl, by decide, by decide, by decide, by decide, _, _, rfl, rfl⟩

theorem witness_LookupReadsFiveRomBytes : 32 ≤ 126 ∧ 126 ≤ 126 ∧ 31 < 32 ∧ 126 < 127 := by decide

theorem witness_FontRomIsNeverWritten :
    (∃ t, step { lit with port := [.word 0x20000000#32] } = .next t) ∧
    ∃ t, Sys2Proof.core.run 1 { lit with port := [.word 0x20000000#32] } = .next t := ⟨⟨_, rfl⟩, _, rfl⟩

theorem witness_SetCharacterWritesFortyPixels :
    unconfigured.configured = false ∧ lit.configured = true ∧ (31#8).toNat < 32 ∧ 126 < (127#8).toNat ∧
    32 ≤ (32#8).toNat ∧ (126#8).toNat ≤ 126 ∧ 5 < (6#8).toNat ∧ (5#8).toNat ≤ 5 ∧ lit.cfg.FontOk := by
  refine ⟨rfl, rfl, by decide, by decide, by decide, by decide, by decide, by decide, fun a h => ?_⟩
  show tfont[a].getLsbD 7 = false
  have hlt : (a / 5 + 32 + 13 * (a % 5)) % 128 < 2 ^ 7 := Nat.mod_lt _ (by decide)
  simp only [tfont, Vector.getElem_ofFn, BitVec.getLsbD_ofNat, Nat.testBit_lt_two_pow hlt, Bool.and_false]

theorem witness_SetCharacterClosedForms :
    (5#8).toNat ≤ 5 ∧ lit.configured = true ∧
    lookup lit.cfg.font (65#8).toNat = some #v[0x41#8, 0x4E#8, 0x5B#8, 0x68#8, 0x75#8] :=
  ⟨by decide, rfl, test_lookup.1⟩

theorem witness_SetPairWritesBothGlyphs :
    unconfigured.configured = false ∧ lit.configured = true ∧ (3#4).toNat ≠ 2 ∧ (31#8).toNat < 32 ∧
    126 < (127#8).toNat ∧ lookup lit.cfg.font (65#8).toNat = some #v[0x41#8, 0x4E#8, 0x5B#8, 0x68#8, 0x75#8] :=
  ⟨rfl, rfl, by decide, by decide, by decide, test_lookup.1⟩

theorem witness_DecimalPointsSurviveOtherCommands :
    ∃ t, exec (.setdec 0b10#2 0b00#2) lit = .next t ∧ ldp t ≠ ldp lit := ⟨_, rfl, by decide⟩

theorem witness_ShowSendsSixWritesInOrder :
    unconfigured.configured = false ∧ (clear (successes 6)).configured = true ∧
    (∀ k < 6, answerAt (clear (successes 6)) k = some .success) ∧
    ((∀ j < 0, answerAt (clear [some .failure]) j = some .success) ∧
      answerAt (clear [some .failure]) 0 = some .failure) ∧
    (∀ j < 5, answerAt (clear (successes 5 ++ [some .failure])) j = some .success) ∧
    answerAt (clear (successes 5 ++ [some .failure])) 5 = some .failure := by decide

theorem witness_UnansweredWriteHoldsTheController :
    answerAt (clear [none]) 0 = none ∧
    (∀ j < 5, answerAt (clear (successes 5 ++ [none])) j = some .success) ∧
    answerAt (clear (successes 5 ++ [none])) 5 = none := by decide

theorem witness_RepeatedShowSendsTheSameFrameTwice :
    (clear (successes 12)).configured = true ∧ ∀ k < 12, answerAt (clear (successes 12)) k = some .success := by decide

theorem witness_UnconfiguredCommandsOnlyReturnTheirStatus :
    ({ unconfigured with port := [.word 0x80000000#32] } : State).configured = false ∧
    ({ unconfigured with port := [.word 0x80000000#32] } : State).port = .word 0x80000000#32 :: [] ∧
    decode 0x80000000#32 = .ok .showFrame ∧ Instr.showFrame.mnemonic ≠ .construct := ⟨rfl, rfl, rfl, by decide⟩

theorem witness_StatusIsTheFirstConditionThatApplies :
    (∀ m, ¬ Spells 0x90000000#32 m) ∧
    firstError (.setchr 6#8 127#8) lit = some .errGlyph ∧ firstError (.setpix true 10#8 0#8) lit = some .errRange ∧
    firstError (.setpair 3#4 0#8 0#8) lit = some .errLength ∧ firstError (.construct 0x64#8 0#16) lit = some .errAddress ∧
    firstError (.setpix true 10#8 0#8) unconfigured = some .errUnconfigured ∧
    firstError .showFrame (clear []) = none ∧ 5 < writesOf .showFrame ∧
    (∀ j < 5, answerAt (clear (successes 5 ++ [some .failure])) j = some .success) ∧
    answerAt (clear (successes 5 ++ [some .failure])) 5 = some .failure ∧
    (∀ j < writesOf .showFrame, answerAt (clear (successes 6)) j = some .success) := by
  refine ⟨fun m hm => ?_, by decide, by decide, by decide, by decide, by decide, by decide, by decide, by decide,
    by decide, by decide⟩
  have h := hm.1
  revert h
  cases m <;> decide

theorem witness_EveryCommandReturnsOneOfItsStatuses : ∃ t, exec (.setchr 6#8 65#8) lit = .next t :=
  exec_next_of_answered _ _ (by simp [writesOf])

/-- A command that changes every element it may: the two buffers, then the brightness with a failed transmit. -/
theorem witness_ElementsChangeOnlyByTheirWriters :
    (∃ t, exec .clear lit = .next t ∧ t.lbuf ≠ lit.lbuf ∧ t.rbuf ≠ lit.rbuf) ∧
    (∃ t, exec (.setbrt true 0x0100#16) (clear [some .failure]) = .next t ∧ t.bright ≠ (clear []).bright ∧
      t.responses ≠ [.ok]) ∧
    (∃ t, exec (.construct 0x62#8 0#16) unconfigured = .next t ∧ t.configured ≠ unconfigured.configured ∧
      t.addr ≠ unconfigured.addr) ∧
    (∃ t, exec .showFrame { clear (successes 6) with seq := some .mode } = .next t ∧ t.seq ≠ some .mode ∧
      t.trace ≠ [] ∧ t.shown ≠ none ∧ t.busScript ≠ successes 6) :=
  ⟨⟨_, rfl, by decide, by decide⟩, ⟨_, rfl, by decide, by decide⟩, ⟨_, rfl, by decide, by decide⟩,
    ⟨_, rfl, by decide, by decide, by decide, by decide⟩⟩

theorem witness_BrightnessIsRetainedAndResent :
    (∃ t, exec (.setbrt false 0x0100#16) lit = .next t ∧ t.bright ≠ lit.bright) ∧
    ((clear (successes 6)).configured = true ∧ ∀ k < 6, answerAt (clear (successes 6)) k = some .success) ∧
    ((∀ k < 4, answerAt (clear (successes 4 ++ [some .failure])) k = some .success) ∧
      answerAt (clear (successes 4 ++ [some .failure])) 4 = some .failure ∧
      ∃ t, exec .showFrame (clear (successes 4 ++ [some .failure])) = .next t) ∧
    ∃ t, exec .showFrame (clear (successes 6)) = .next t ∧
      ∃ e ∈ t.trace.drop (clear (successes 6)).trace.length, e.reg = 0x19#8 :=
  ⟨⟨_, rfl, by decide⟩, ⟨rfl, by decide⟩, ⟨by decide, by decide, _, rfl⟩, ⟨_, rfl, by decide⟩⟩

theorem witness_BusWritesGoToAddrAndKnownRegisters :
    ∃ t, exec .showFrame (clear [some .success, some .failure]) = .next t ∧ t.trace.length = 2 := ⟨_, rfl, by decide⟩

theorem witness_SettersAreInvisibleUntilShow :
    (∀ i ∈ [Instr.clear, .setpix true 9#8 7#8, .setbrt false 0#16, .construct 0x64#8 0#16], quiet i = true) ∧
    (∃ t, runCommands [.clear, .setpix true 9#8 7#8] (clear (successes 6)) = .next t ∧ t.configured = true) ∧
    ∀ k < 6, answerAt (clear (successes 6)) k = some .success := ⟨by decide, ⟨_, rfl, by decide⟩, by decide⟩

theorem witness_ObservationsAreNeverRead : ∃ t, exec .showFrame (clear (successes 6)) = .next t := ⟨_, rfl⟩

/-- Two controllers with different buffers, brightness and font, and a run of a word and a reset. -/
theorem witness_StatusesRevealNoBufferContents :
    SameForHost { lit with port := [.word 0x20000000#32, .reset] }
      { clear [] with port := [.word 0x20000000#32, .reset], bright := 0#7, cfg := ⟨Vector.replicate 475 0#8, .bit7, .upward⟩ } ∧
    ∃ t, Sys2Proof.core.run 2 { lit with port := [.word 0x20000000#32, .reset] } = .next t :=
  ⟨⟨rfl, rfl, rfl, rfl, rfl⟩, _, rfl⟩

theorem witness_RunAnswersEveryWordOnce :
    ({ clear (successes 12) with port := [.word 0x80000000#32, .word 0x90000000#32] } : State).port =
      [0x80000000#32, 0x90000000#32].map .word ∧
    ∀ k, k < 6 * [0x80000000#32, 0x90000000#32].length →
      answerAt { clear (successes 12) with port := [.word 0x80000000#32, .word 0x90000000#32] } k ≠ none :=
  ⟨rfl, by decide⟩

/-- A state that meets the invariant with a frame shown, and a step from it. -/
def shownState : State :=
  { clear [] with
    trace := frameWrites 0x61#7 ⟨clearBuffer, clearBuffer, 13#7⟩
    shown := some ⟨clearBuffer, clearBuffer, 13#7⟩
    port := [.word 0x5001040F#32] }

theorem witness_EveryStepKeepsTheControllerInvariant :
    ControllerInv shownState ∧ ∃ t, step shownState = .next t := by
  refine ⟨⟨fun _ => .inl rfl, fun _ => ⟨?_, ?_⟩, rfl, fun e he => ?_, fun f hf => ?_⟩, _, rfl⟩
  · decide
  · decide
  · have h := frameWrites_mapped 0x61#7 ⟨clearBuffer, clearBuffer, 13#7⟩ e he
    exact ⟨.inl h.1, h.2⟩
  · cases hf
    exact ⟨[], 0x61#7, rfl⟩

end Sys2Proof.Tests
end

section
/-! PROOFS. The memories of 20_memory.md: commands that stay off the bus (R63), and the font ROM (R51). -/

namespace Sys2Proof.Machine

open Sys2Proof.Claims

/-! ### Quiet commands stay off the bus -/

/-- Nothing has happened on the bus between `s` and `t`: the same writes and frame, the same answers still to come. -/
structure SameBus (s t : State) : Prop where
  trace     : t.trace = s.trace
  shown     : t.shown = s.shown
  busScript : t.busScript = s.busScript
  busDraws  : t.busDraws = s.busDraws

theorem SameBus.refl (s : State) : SameBus s s := ⟨rfl, rfl, rfl, rfl⟩

theorem SameBus.trans {s t u : State} (h₁ : SameBus s t) (h₂ : SameBus t u) : SameBus s u where
  trace     := h₂.trace.trans h₁.trace
  shown     := h₂.shown.trans h₁.shown
  busScript := h₂.busScript.trans h₁.busScript
  busDraws  := h₂.busDraws.trans h₁.busDraws

theorem SameBus.answerAt_eq {s t : State} (h : SameBus s t) (k : Nat) : answerAt t k = answerAt s k :=
  answerAt_congr h.busScript h.busDraws k

/-- Changing the buffers and returning a status is nothing the bus can see. -/
theorem SameBus.of_onlyBuffersChange {s t : State} {st : Status} (h : OnlyBuffersChange s t st) : SameBus s t := by
  constructor <;> rw [h]

theorem writesOf_eq_zero_of_quiet {i : Instr} (h : quiet i = true) : writesOf i = 0 := by
  cases i with
  | setbrt t lvl => simpa [quiet, writesOf] using h
  | showFrame => cases h
  | _ => rfl

/-- A command without bus writes has no answer to wait for, so it ends from every state (R12, R63). -/
theorem exec_next_of_quiet {i : Instr} (hq : quiet i = true) (s : State) : ∃ t, exec i s = .next t :=
  exec_next_of_answered i s fun k hk => by simp [writesOf_eq_zero_of_quiet hq] at hk

theorem exec_sameBus_of_quiet {i : Instr} {s t : State} (hq : quiet i = true) (h : exec i s = .next t) :
    SameBus s t := by
  cases exec_effect h with
  | refused st _ _ ht => subst ht; constructor <;> rfl
  | constructed addr lvl _ _ ht => subst ht; constructor <;> rfl
  | buffers st _ _ _ _ he => exact .of_onlyBuffersChange he.only
  | bright lvl _ _ ht => subst ht; constructor <;> simp
  | transmitted lvl o hi _ _ _ => subst hi; cases hq
  | shown hi _ _ _ => subst hi; cases hq
  | showFailed k hi _ _ _ _ _ => subst hi; cases hq

theorem runCommands_cons_of_next {i : Instr} {s t : State} (h : exec i s = .next t) (is : List Instr) :
    runCommands (i :: is) s = runCommands is t := by
  rw [runCommands, h]

/-- Any list of quiet commands runs to its end and leaves the bus as it was (R63). -/
theorem runCommands_quiet (is : List Instr) (s : State) (hq : ∀ i ∈ is, quiet i = true) :
    ∃ t, runCommands is s = .next t ∧ SameBus s t := by
  induction is generalizing s with
  | nil => exact ⟨s, rfl, .refl s⟩
  | cons i is ih =>
    obtain ⟨hi, his⟩ := List.forall_mem_cons.1 hq
    obtain ⟨t, ht⟩ := exec_next_of_quiet hi s
    obtain ⟨u, hu, htu⟩ := ih t his
    exact ⟨u, (runCommands_cons_of_next ht is).trans hu, (exec_sameBus_of_quiet hi ht).trans htu⟩

/-- Settles O32: the quiet commands leave the bus as it was, so the SHOW after them finds the answers of the first
state and sends the frame of the last one. -/
theorem settersAreInvisibleUntilShow : Obligations.SettersAreInvisibleUntilShow := by
  intro is s hq
  obtain ⟨t, ht, hst⟩ := runCommands_quiet is s hq
  refine ⟨t, ht, hst.trace, hst.shown, hst.answerAt_eq, fun hc ha => ?_⟩
  have ha' : ∀ k < 6, answerAt t k = some .success := fun k hk => (hst.answerAt_eq k).trans (ha k hk)
  rw [← hst.trace]
  exact ⟨_, execShowFrame_ok t hc ha', rfl⟩

/-! ### The font ROM -/

/-- A lookup in range reads the five ROM bytes from `(c - 32) × 5` (R51, R110). -/
theorem lookup_eq_some_fontRead (font : FontRom) {c : Nat} (h : 32 ≤ c ∧ c ≤ 126) :
    lookup font c = some (fontRead font ((c - 32) * 5) (by omega)) := by
  rw [lookup, dif_pos h]

theorem lookup_eq_none_iff (font : FontRom) (c : Nat) : lookup font c = none ↔ c < 32 ∨ 126 < c := by
  refine ⟨fun hn => ?_, lookup_eq_none_of font⟩
  by_contra hc
  rw [lookup_eq_some_fontRead font (by omega)] at hn
  cases hn

theorem fontRead_getElem (font : FontRom) (a : Nat) (h : a + 5 ≤ 475) (i : Fin 5) :
    (fontRead font a h)[i.val] = font[a + i.val] := by
  simp [fontRead]

/-- Settles O16: in range the glyph is one font ROM read, and outside there is none. -/
theorem lookupReadsFiveRomBytes : Obligations.LookupReadsFiveRomBytes := by
  refine ⟨lookup_eq_none_iff, fun font c h₁ h₂ => ⟨_, lookup_eq_some_fontRead font ⟨h₁, h₂⟩, fun i => ?_⟩⟩
  have hi : (c - 32) * 5 + i.val < 475 := by omega
  exact ⟨hi, fontRead_getElem font _ _ i⟩

end Sys2Proof.Machine
end

section
/-! PROOFS. The opcode map R82 and the decoder R83 of 30_encoding.md: to meet a row's match and mask is to have the row's
opcode and only zeros in its reserved bits, which is what the decoder asks of a word. -/

namespace Sys2Proof

open Sys2Proof.Claims

/-! ### The rows of the opcode map as fields -/

/-- The opcode column of R82. -/
def Mnemonic.opcode : Mnemonic → BitVec 4
  | .construct => 0x1#4
  | .clear => 0x2#4
  | .setbrt => 0x3#4
  | .setdec => 0x4#4
  | .setpix => 0x5#4
  | .setchr => 0x6#4
  | .setpair => 0x7#4
  | .showFrame => 0x8#4

/-- How many low bits of a row's format hold operands (R81). The mask has its ones above them. -/
def Mnemonic.operandBits : Mnemonic → Nat
  | .construct => 24
  | .clear => 0
  | .setbrt => 17
  | .setdec => 4
  | .setpix => 17
  | .setchr => 16
  | .setpair => 20
  | .showFrame => 0

/-- The reserved bits of the row's format are 0 in `w` (R81, R91). -/
def Mnemonic.ReservedZero (w : Word) : Mnemonic → Prop
  | .construct => field w 24 4 = 0
  | .clear => field w 0 28 = 0
  | .setbrt => field w 17 11 = 0
  | .setdec => field w 4 24 = 0
  | .setpix => field w 17 11 = 0
  | .setchr => field w 16 12 = 0
  | .setpair => field w 20 8 = 0
  | .showFrame => field w 0 28 = 0

@[simp] theorem Instr.opcode_mnemonic (i : Instr) : i.mnemonic.opcode = i.opcode := by cases i <;> rfl

theorem Mnemonic.maskWord_eq_shiftLeft (m : Mnemonic) : m.maskWord = BitVec.allOnes 32 <<< m.operandBits := by
  cases m <;> rfl

theorem Mnemonic.matchWord_mod_operandBits (m : Mnemonic) : m.matchWord.toNat % 2 ^ m.operandBits = 0 := by
  cases m <;> rfl

/-- The bits under a row's mask are the opcode and the reserved bits. -/
theorem and_maskWord_eq_matchWord_iff (w : Word) (m : Mnemonic) :
    w &&& m.maskWord = m.matchWord ↔ field w 28 4 = m.opcode ∧ m.ReservedZero w := by
  rw [and_mask_eq_iff w _ _ _ m.maskWord_eq_shiftLeft m.matchWord_mod_operandBits]
  have hw := w.isLt
  cases m <;>
    simp only [Mnemonic.matchWord, Mnemonic.opcode, Mnemonic.operandBits, Mnemonic.ReservedZero, field_eq_iff,
      BitVec.toNat_ofNat, BitVec.ofNat_eq_ofNat] <;>
    omega

/-! ### The decoder follows the rows -/

/-- What the decoder asks of a word: the opcode, the zeros and, for SETDEC, the tri-state codes (R83, R86). -/
theorem decode_ok_row {w : Word} {i : Instr} (h : decode w = .ok i) :
    field w 28 4 = i.opcode ∧ i.mnemonic.ReservedZero w ∧
      (i.mnemonic = .setdec → field w 2 2 ≠ 0b01#2 ∧ field w 0 2 ≠ 0b01#2) := by
  have zeros {lo n : Nat} (hz : w.toNat / 2 ^ lo % 2 ^ n = 0) : field w lo n = 0 := (field_eq_iff w lo n 0).2 hz
  rw [field_eq_iff]
  obtain ⟨ho, hz, rfl⟩ | ⟨ho, hz, rfl⟩ | ⟨ho, hz, rfl⟩ | ⟨ho, hz, rfl, hl, hr⟩ | ⟨ho, hz, rfl⟩ | ⟨ho, hz, rfl⟩ |
    ⟨ho, hz, rfl⟩ | ⟨ho, hz, rfl⟩ := decode_ok_cases h
  case inr.inr.inr.inl => exact ⟨ho, zeros hz, fun _ => ⟨hl, hr⟩⟩
  all_goals exact ⟨ho, zeros hz, nofun⟩

theorem spells_of_decode {w : Word} {i : Instr} (h : decode w = .ok i) : Spells w i.mnemonic := by
  obtain ⟨hop, hzero, htri⟩ := decode_ok_row h
  exact ⟨(and_maskWord_eq_matchWord_iff w _).2 ⟨by rw [hop, Instr.opcode_mnemonic], hzero⟩, htri⟩

theorem exists_decode_of_spells {w : Word} {m : Mnemonic} (h : Spells w m) :
    ∃ i, decode w = .ok i ∧ i.mnemonic = m := by
  obtain ⟨hrow, htri⟩ := h
  obtain ⟨hop, hzero⟩ := (and_maskWord_eq_matchWord_iff w m).1 hrow
  cases m <;> simp only [Mnemonic.opcode, Mnemonic.ReservedZero] at hop hzero
  case construct => exact ⟨.construct (field w 16 8) (field w 0 16), by simp [decode, hop, hzero], rfl⟩
  case clear => exact ⟨.clear, by simp [decode, hop, hzero], rfl⟩
  case setbrt => exact ⟨.setbrt (w.getLsbD 16) (field w 0 16), by simp [decode, hop, hzero], rfl⟩
  case setdec =>
    have hcodes : ¬(field w 2 2 = 0b01#2 ∨ field w 0 2 = 0b01#2) := not_or.2 (htri rfl)
    exact ⟨.setdec (field w 2 2) (field w 0 2), by simp [decode, hop, hzero, hcodes], rfl⟩
  case setpix => exact ⟨.setpix (w.getLsbD 16) (field w 8 8) (field w 0 8), by simp [decode, hop, hzero], rfl⟩
  case setchr => exact ⟨.setchr (field w 8 8) (field w 0 8), by simp [decode, hop, hzero], rfl⟩
  case setpair => exact ⟨.setpair (field w 16 4) (field w 8 8) (field w 0 8), by simp [decode, hop, hzero], rfl⟩
  case showFrame => exact ⟨.showFrame, by simp [decode, hop, hzero], rfl⟩

/-- Settles O4: the decoder and the rows ask the same of a word. -/
theorem decodeFollowsMatchAndMask : Obligations.DecodeFollowsMatchAndMask := by
  refine ⟨fun w m => ⟨?_, exists_decode_of_spells⟩, fun w i h => (decode_ok_row h).1⟩
  rintro ⟨i, h, rfl⟩
  exact spells_of_decode h

end Sys2Proof
end

section
/-! PROOFS. What one step and a run can do, and from it the font lookup of 40_font_lookup.md: no step writes the
parameters of the machine, so the font ROM stands for the life of the hardware (R114). -/

namespace Sys2Proof.Machine

/-! ### Inversion of `step` and of a run -/

/-- Everything a step can do when it answers a next state (R83, R251, R252). -/
inductive StepEffect (s t : State) : Prop
  /-- The host has placed nothing. -/
  | waiting (hp : s.port = []) (ht : t = s)
  /-- The host asserted reset (R230). -/
  | reset (rest : List HostInput) (hp : s.port = .reset :: rest) (ht : takeReset { s with port := rest } = .next t)
  /-- The word spells no command (R206). -/
  | illegal (w : Word) (rest : List HostInput) (e : DecodeError) (hp : s.port = .word w :: rest)
      (hd : decode w = .error e) (ht : t = respond .errIllegal { s with port := rest })
  /-- The word spells the command `i`, which ran. -/
  | command (w : Word) (rest : List HostInput) (i : Instr) (hp : s.port = .word w :: rest) (hd : decode w = .ok i)
      (he : exec i { s with port := rest } = .next t)

/-- The inversion lemma: a step that answers a next state had one of these effects. -/
theorem step_effect {s t : State} (h : step s = .next t) : StepEffect s t := by
  unfold step at h
  split at h
  next hp => exact .waiting hp (Host.Outcome.next.inj h).symm
  next rest hp => exact .reset rest hp h
  next w rest hp =>
    split at h
    next i hd => exact .command w rest i hp hd h
    next e hd => exact .illegal w rest e hp hd (Host.Outcome.next.inj h).symm

/-- A run of `n + 1` steps is a step and a run of `n` steps from where it led. -/
theorem exists_step_of_run_succ {M : Host.Core} {n : Nat} {s u : M.State} (h : M.run (n + 1) s = .next u) :
    ∃ t, M.step s = .next t ∧ M.run n t = .next u := by
  unfold Host.Core.run at h
  split at h
  next t ht => exact ⟨t, ht, h⟩
  next => cases h
  next => cases h

/-- What every step keeps holds at the end of every run from a state where it holds. -/
theorem run_keeps {M : Host.Core} {P : M.State → Prop} (hstep : ∀ s t, P s → M.step s = .next t → P t) {n : Nat}
    {s u : M.State} (hs : P s) (h : M.run n s = .next u) : P u := by
  induction n generalizing s with
  | zero => cases h; exact hs
  | succ n ih =>
    obtain ⟨t, hst, htu⟩ := exists_step_of_run_succ h
    exact ih (hstep s t hs hst) htu

/-! ### Nothing writes the parameters -/

theorem exec_cfg {i : Instr} {s t : State} (h : exec i s = .next t) : t.cfg = s.cfg := by
  cases exec_effect h with
  | refused st _ _ ht => simp [ht]
  | constructed addr lvl _ _ ht => simp [ht]
  | buffers st _ _ _ _ he => rw [he.only]
  | bright lvl _ _ ht => simp [ht]
  | transmitted lvl o _ _ _ ht => simp [ht]
  | shown _ _ _ ht => simp [ht]
  | showFailed k _ _ _ _ _ ht => simp [ht]

theorem takeReset_cfg {s t : State} (h : takeReset s = .next t) : t.cfg = s.cfg := by
  cases h
  rfl

/-- No step writes FONT, RDP_BIT or ROUND_TIE (R9). -/
theorem step_cfg {s t : State} (h : step s = .next t) : t.cfg = s.cfg := by
  cases step_effect h with
  | waiting _ ht => rw [ht]
  | reset rest _ ht => exact (takeReset_cfg ht).trans rfl
  | illegal w rest e _ _ ht => simp [ht]
  | command w rest i _ _ he => exact (exec_cfg he).trans rfl

theorem run_cfg {n : Nat} {s t : State} (h : Sys2Proof.core.run n s = .next t) : t.cfg = s.cfg :=
  run_keeps (M := Sys2Proof.core) (P := fun u : State => u.cfg = s.cfg)
    (fun _ _ hu huv => (step_cfg huv).trans hu) rfl h

/-! ### The font lookup -/

theorem lookup_isSome_iff (font : FontRom) (c : Nat) : (lookup font c).isSome = true ↔ 32 ≤ c ∧ c ≤ 126 := by
  rw [Option.isSome_iff_ne_none, Ne, lookup_eq_none_iff]
  omega

/-- Settles O17: the font ROM is one of the parameters, which no step and so no run writes. -/
theorem fontRomIsNeverWritten : Obligations.FontRomIsNeverWritten :=
  ⟨fun _ _ h => by rw [step_cfg h], fun _ _ _ _ h => by rw [run_cfg h], fun s c => lookup_isSome_iff s.cfg.font c⟩

end Sys2Proof.Machine
end

section
/-! PROOFS. The configuration commands of 41_config_ops.md: CONSTRUCT (R120), SETBRT (R122) and the brightness that both
store and every SHOW sends again (R121, R123). -/

namespace Sys2Proof.Machine

open Sys2Proof.Claims

/-! ### The words of format A and format L -/

/-- Two words without a common bit: `x` has only bits from `n` up, `y` only bits below. -/
theorem or_toNat_of_lt (x y : Word) (n : Nat) (hx : x.toNat % 2 ^ n = 0) (hy : y.toNat < 2 ^ n) :
    (x ||| y).toNat = x.toNat + y.toNat := by
  obtain ⟨q, hq⟩ := Nat.dvd_of_mod_eq_zero hx
  rw [BitVec.toNat_or, hq, Nat.two_pow_add_eq_or_of_lt hy]

/-- A word of two operand fields below the opcode: `y` in the low `n` bits, `x` in the `m` bits above them (R81). -/
theorem or_operands_toNat (op : Word) {m n : Nat} (x : BitVec m) (y : BitVec n) (hmn : m + n ≤ 32)
    (hop : op.toNat % 2 ^ (m + n) = 0) :
    (op ||| (x.setWidth 32 <<< n) ||| y.setWidth 32).toNat = op.toNat + x.toNat * 2 ^ n + y.toNat := by
  have hxlt : x.toNat * 2 ^ n < 2 ^ (m + n) := by
    rw [pow_add]
    exact Nat.mul_lt_mul_of_pos_right x.isLt (Nat.two_pow_pos n)
  have hx : (x.setWidth 32 <<< n).toNat = x.toNat * 2 ^ n := by
    rw [BitVec.toNat_shiftLeft, BitVec.toNat_setWidth_of_le (by omega), Nat.shiftLeft_eq]
    exact Nat.mod_eq_of_lt (hxlt.trans_le (Nat.pow_le_pow_right two_pos hmn))
  have hy : (y.setWidth 32).toNat = y.toNat := BitVec.toNat_setWidth_of_le (by omega)
  have hhigh := or_toNat_of_lt op (x.setWidth 32 <<< n) (m + n) hop (hx ▸ hxlt)
  have hlow : (op.toNat + x.toNat * 2 ^ n) % 2 ^ n = 0 := by
    rw [Nat.add_mul_mod_self_right]
    exact Nat.mod_eq_zero_of_dvd ((pow_dvd_pow 2 (Nat.le_add_left n m)).trans (Nat.dvd_of_mod_eq_zero hop))
  rw [hx] at hhigh
  rw [or_toNat_of_lt _ _ n (hhigh ▸ hlow) (hy ▸ y.isLt), hhigh, hy]

theorem encode_construct_eq_or (addr : BitVec 8) (lvl : BitVec 16) :
    encode (.construct addr lvl) = 0x10000000#32 ||| (addr.setWidth 32 <<< 16) ||| lvl.setWidth 32 :=
  BitVec.eq_of_toNat_eq <|
    (encode_construct_toNat addr lvl).trans (or_operands_toNat 0x10000000#32 addr lvl (by decide) rfl).symm

theorem encode_setbrt_eq_or (t : Bool) (lvl : BitVec 16) :
    encode (.setbrt t lvl) = 0x30000000#32 ||| ((BitVec.ofBool t).setWidth 32 <<< 16) ||| lvl.setWidth 32 := by
  apply BitVec.eq_of_toNat_eq
  rw [encode_setbrt_toNat, or_operands_toNat 0x30000000#32 (BitVec.ofBool t) lvl (by decide) rfl, ofBool_toNat]
  rfl

/-! ### The converted level -/

/-- With exact halves rounded upward, `round` is the floor of `m / 256 + 1 / 2`. -/
theorem roundRatio_upward (m : Int) : roundRatio .upward m 256 = (m + 128) / 256 := by
  simp only [roundRatio]
  split_ifs <;> omega

/-- The tie rule matters at an exact half above an even number only, which `toEven` leaves below. -/
theorem roundRatio_toEven (m : Int) :
    roundRatio .toEven m 256 = if m % 256 = 128 ∧ m / 256 % 2 = 0 then m / 256 else (m + 128) / 256 := by
  simp only [roundRatio]
  split_ifs <;> omega

/-- `clamp` to a range that is not empty, as the formula of R121 writes it. -/
theorem clamp_eq_max_min {v lo hi : Int} (h : lo ≤ hi) : clamp v lo hi = max lo (min hi v) := by
  unfold clamp
  split_ifs <;> omega

/-- BrightOf of a level in 256ths is the integer formula of R121 by either tie rule: the product `127 * n` is an exact
half only for `n = 128 + 256 k`, and there it is 63.5, whose lower neighbour is odd, or lies outside the clamp. -/
theorem brightOfRatio_eq_formula (tie : RoundTie) (n : Int) :
    brightOfRatio tie n 256 = max 0 (min 127 ((127 * n + 128) / 256)) := by
  rw [brightOfRatio, clamp_eq_max_min (by decide)]
  cases tie with
  | upward => rw [roundRatio_upward]
  | toEven =>
    rw [roundRatio_toEven]
    split_ifs with htie
    · -- 127 is its own inverse modulo 256
      obtain ⟨k, rfl⟩ : ∃ k, n = 256 * k + 128 := ⟨127 * (127 * n / 256) - 63 * n + 63, by omega⟩
      have hbelow : 127 * (256 * k + 128) / 256 = 127 * k + 63 := by omega
      have habove : (127 * (256 * k + 128) + 128) / 256 = 127 * k + 64 := by omega
      have hk : 1 ≤ k ∨ k ≤ -1 := by omega
      rw [hbelow, habove]
      clear htie hbelow habove
      omega
    · rfl

theorem brightOf_eq_formula (tie : RoundTie) (lvl : BitVec 16) :
    brightOf tie lvl = BitVec.ofNat 7 (brightFormula lvl) := by
  have hpos : 0 ≤ max 0 (min 127 ((127 * lvl.toInt + 128) / 256)) := le_max_left 0 _
  rw [brightOf, levelNum, brightOfRatio_eq_formula, brightFormula, ← BitVec.ofInt_natCast, Int.toNat_of_nonneg hpos]

theorem brightFormula_le (lvl : BitVec 16) : brightFormula lvl ≤ 127 := by
  unfold brightFormula
  omega

/-- The bus payload of a converted level: its seven bits and a zero above (R122). -/
theorem brightFormula_setWidth (lvl : BitVec 16) :
    (BitVec.ofNat 7 (brightFormula lvl)).setWidth 8 = BitVec.ofNat 8 (brightFormula lvl) := by
  have := brightFormula_le lvl
  apply BitVec.eq_of_toNat_eq
  rw [BitVec.toNat_setWidth, BitVec.toNat_ofNat, BitVec.toNat_ofNat]
  omega

/-! ### CONSTRUCT -/

/-- CONSTRUCT with an illegal address (R120). -/
theorem exec_construct_illegal {addr : BitVec 8} (h : legalAddress addr = false) (lvl : BitVec 16) (s : State) :
    exec (.construct addr lvl) s = .next (respond .errAddress s) := by
  rw [exec, execConstruct, h, if_neg Bool.false_ne_true, raise]

/-- CONSTRUCT with a legal address, on a controller in any state (R120). -/
theorem exec_construct_legal {addr : BitVec 8} (h : legalAddress addr = true) (lvl : BitVec 16) (s : State) :
    exec (.construct addr lvl) s = .next (respond .ok { clearBuffers s with
      addr := addr.setWidth 7, bright := brightOf s.cfg.roundTie lvl, configured := true }) := by
  rw [exec, execConstruct, if_pos h, returnOk]

theorem mnemonic_ne_construct {i : Instr} (h : ∀ addr lvl, i ≠ .construct addr lvl) : i.mnemonic ≠ .construct := by
  cases i with
  | construct addr lvl => exact absurd rfl (h addr lvl)
  | _ => nofun

/-- Settles O9: the address check alone decides between the two outcomes, and only the other commands test
CONFIGURED. -/
theorem constructConfiguresOrChangesNothing : Obligations.ConstructConfiguresOrChangesNothing := by
  refine ⟨encode_construct_eq_or, fun addr lvl s => ?_, fun i s hi hc =>
    exec_unconfigured i s hc (mnemonic_ne_construct hi)⟩
  cases hl : legalAddress addr with
  | true =>
    have hl' := (legalAddress_iff addr).1 hl
    rw [if_neg (by tauto), exec_construct_legal hl, brightOf_eq_formula]
    rfl
  | false =>
    have hl' := (legalAddress_iff addr).not.1 (by simp [hl])
    rw [if_pos (by tauto), exec_construct_illegal hl]
    rfl

/-! ### SETBRT -/

theorem setBright_eq (lvl : BitVec 16) (s : State) :
    setBright lvl s = { s with bright := BitVec.ofNat 7 (brightFormula lvl) } := by
  rw [setBright, brightOf_eq_formula]

/-- SETBRT without transmit (R122). -/
theorem exec_setbrt_quiet (lvl : BitVec 16) {s : State} (hc : s.configured = true) :
    exec (.setbrt false lvl) s = .next (respond .ok (setBright lvl s)) := by
  rw [exec, execSetbrt, requireConfigured_true hc, if_neg Bool.false_ne_true, returnOk]

/-- Settles O11: the brightness is stored in every case, and the write with transmit carries the stored value. -/
theorem setBrightnessStoresAndTransmits : Obligations.SetBrightnessStoresAndTransmits := by
  refine ⟨encode_setbrt_eq_or, fun t lvl s hc => exec_unconfigured _ s hc nofun, fun lvl s hc => ?_,
    fun lvl s o hc ha => ?_⟩
  · rw [exec_setbrt_quiet lvl hc, setBright_eq]
    rfl
  · rw [exec, execSetbrt_answered lvl o s hc ha, setBright_eq, brightOf_eq_formula, brightFormula_setWidth]
    rfl

/-! ### The brightness is kept and sent again -/

/-- The writers of BRIGHT (R123). -/
theorem construct_or_setbrt_of_bright_ne {i : Instr} {s t : State} (h : exec i s = .next t)
    (hne : t.bright ≠ s.bright) : i.mnemonic = .construct ∨ i.mnemonic = .setbrt := by
  cases exec_effect h with
  | refused st _ _ ht => exact absurd (by simp [ht]) hne
  | constructed addr lvl hi _ _ => exact .inl (by rw [hi, Instr.mnemonic])
  | buffers st _ _ _ _ he => exact absurd (by rw [he.only]) hne
  | bright lvl hi _ _ => exact .inr (by rw [hi, Instr.mnemonic])
  | transmitted lvl o hi _ _ _ => exact .inr (by rw [hi, Instr.mnemonic])
  | shown _ _ _ ht => exact absurd (by simp [ht]) hne
  | showFailed k _ _ _ _ _ ht => exact absurd (by simp [ht]) hne

/-- A frame has one write of the brightness register. -/
theorem frameWrites_filter_brightness (a : BitVec 7) (f : Frame) :
    (frameWrites a f).filter (·.reg = 0x19#8) = [⟨a, 0x19#8, [f.bright.setWidth 8], .success⟩] := rfl

theorem frameWrites_brightness {a : BitVec 7} {f : Frame} {e : BusWrite} (he : e ∈ frameWrites a f)
    (hreg : e.reg = 0x19#8) : e.bytes = [f.bright.setWidth 8] := by
  have hmem : e ∈ (frameWrites a f).filter (·.reg = 0x19#8) := List.mem_filter.2 ⟨he, decide_eq_true hreg⟩
  rw [frameWrites_filter_brightness, List.mem_singleton] at hmem
  rw [hmem]

/-- Every write of a failed frame is one of the frame's, but for its outcome. -/
theorem failedFrameWrites_brightness {a : BitVec 7} {f : Frame} {k : Nat} {e : BusWrite}
    (he : e ∈ failedFrameWrites a f k) (hreg : e.reg = 0x19#8) : e.bytes = [f.bright.setWidth 8] := by
  rcases List.mem_append.1 he with h | h
  · exact frameWrites_brightness (List.mem_of_mem_take h) hreg
  · simp only [List.mem_map, Option.mem_toList] at h
    obtain ⟨e', h, rfl⟩ := h
    exact frameWrites_brightness (e := e') (List.mem_of_getElem? h) hreg

/-- SHOW that reaches its brightness write: the write is in TRACE with its outcome, whatever came after (R181, R182). -/
theorem brightness_mem_trace_of_show {s t : State} {o : BusOutcome} (hc : s.configured = true)
    (ha : ∀ k < 4, answerAt s k = some .success) (ho : answerAt s 4 = some o) (h : exec .showFrame s = .next t) :
    ⟨s.addr, 0x19#8, [s.bright.setWidth 8], o⟩ ∈ t.trace.drop s.trace.length := by
  rw [exec] at h
  cases o with
  | failure =>
    rw [execShowFrame_fails s 4 hc (by decide) ha ho] at h
    cases h
    simp [failedFrameWrites, frameWrites]
  | success =>
    have ha5 : ∀ k < 5, answerAt s k = some .success := Nat.forall_lt_succ_right.2 ⟨ha, ho⟩
    cases h5 : answerAt s 5 with
    | none =>
      rw [execShowFrame_stuck s 5 hc (by decide) ha5 h5] at h
      cases h
    | some o' =>
      cases o' with
      | success =>
        rw [execShowFrame_ok s hc (Nat.forall_lt_succ_right.2 ⟨ha5, h5⟩)] at h
        cases h
        simp [frameWrites]
      | failure =>
        rw [execShowFrame_fails s 5 hc (by decide) ha5 h5] at h
        cases h
        simp [failedFrameWrites, frameWrites]

/-- A brightness write of any SHOW, a failed one too, carries BRIGHT as it stands (R123). -/
theorem show_brightness_bytes {s t : State} (h : exec .showFrame s = .next t) {e : BusWrite}
    (he : e ∈ t.trace.drop s.trace.length) (hreg : e.reg = 0x19#8) : e.bytes = [s.bright.setWidth 8] := by
  cases exec_effect h with
  | refused st _ _ ht => simp [ht] at he
  | constructed addr lvl hi _ _ => cases hi
  | buffers st _ _ hw _ _ => cases hw
  | bright lvl hi _ _ => cases hi
  | transmitted lvl o hi _ _ _ => cases hi
  | shown _ _ _ ht =>
    rw [ht, List.drop_left] at he
    exact frameWrites_brightness he hreg
  | showFailed k _ _ _ _ _ ht =>
    rw [ht, List.drop_left] at he
    exact failedFrameWrites_brightness he hreg

/-- Settles O30: BRIGHT has two writers, and the frame of a SHOW holds one write of it. -/
theorem brightnessIsRetainedAndResent : Obligations.BrightnessIsRetainedAndResent := by
  refine ⟨fun _ _ _ => construct_or_setbrt_of_bright_ne, fun s hc ha => ⟨_, execShowFrame_ok s hc ha, rfl, ?_⟩,
    fun _ _ _ => brightness_mem_trace_of_show, fun _ _ h _ => show_brightness_bytes h⟩
  rw [List.drop_left, frameWrites_filter_brightness]

end Sys2Proof.Machine
end

section
/-! PROOFS. The buffer commands of 42_buffer_ops.md: CLEAR (R140), SETDEC (R141) and SETPIX (R142). -/

namespace Sys2Proof.Machine

open Sys2Proof.Claims

/-! ### The words of format D and format P -/

theorem encode_setdec_eq_or (l r : BitVec 2) :
    encode (.setdec l r) = 0x40000000#32 ||| (l.setWidth 32 <<< 2) ||| r.setWidth 32 :=
  BitVec.eq_of_toNat_eq <|
    (encode_setdec_toNat l r).trans (or_operands_toNat 0x40000000#32 l r (by decide) rfl).symm

/-- One operand field at bit `n`, below the opcode and above `n` zeros (R81). -/
theorem or_operand_toNat (op : Word) {m : Nat} (x : BitVec m) (n : Nat) (hmn : m + n ≤ 32)
    (hop : op.toNat % 2 ^ (m + n) = 0) :
    (op ||| (x.setWidth 32 <<< n)).toNat = op.toNat + x.toNat * 2 ^ n := by
  simpa using or_operands_toNat op x 0#n hmn hop

/-- A word of three operand fields below the opcode, `z` lowest (R81): the opcode and `x` make a word whose low bits,
where the two other fields go, are zero. -/
theorem or_three_operands_toNat (op : Word) {k m n : Nat} (x : BitVec k) (y : BitVec m) (z : BitVec n)
    (hw : k + (m + n) ≤ 32) (hop : op.toNat % 2 ^ (k + (m + n)) = 0) :
    (op ||| (x.setWidth 32 <<< (m + n)) ||| (y.setWidth 32 <<< n) ||| z.setWidth 32).toNat =
      op.toNat + x.toNat * 2 ^ (m + n) + y.toNat * 2 ^ n + z.toNat := by
  have hx := or_operand_toNat op x (m + n) hw hop
  have hlow : (op.toNat + x.toNat * 2 ^ (m + n)) % 2 ^ (m + n) = 0 := by
    rw [Nat.add_mul_mod_self_right]
    exact Nat.mod_eq_zero_of_dvd ((pow_dvd_pow 2 (Nat.le_add_left (m + n) k)).trans (Nat.dvd_of_mod_eq_zero hop))
  rw [or_operands_toNat _ y z (by omega) (hx ▸ hlow), hx]

theorem encode_setpix_eq_or (b : Bool) (x y : BitVec 8) :
    encode (.setpix b x y) =
      0x50000000#32 ||| ((BitVec.ofBool b).setWidth 32 <<< 16) ||| (x.setWidth 32 <<< 8) ||| y.setWidth 32 := by
  apply BitVec.eq_of_toNat_eq
  rw [encode_setpix_toNat, ← ofBool_toNat]
  exact (or_three_operands_toNat 0x50000000#32 (BitVec.ofBool b) x y (by decide) rfl).symm

/-! ### SETDEC -/

/-- SETDEC on a configured controller (R141). -/
theorem exec_setdec_configured (l r : BitVec 2) {s : State} (hc : s.configured = true) :
    exec (.setdec l r) s = .next (respond .ok (setDecimals l r s)) := by
  rw [exec, execSetdec, requireConfigured_true hc, returnOk]

/-- Settles O13: each operand with a value replaces one bit of one byte, and the other bits are as before. -/
theorem setDecimalWritesOnlyTheFlags : Obligations.SetDecimalWritesOnlyTheFlags :=
  ⟨encode_setdec_eq_or, fun _ _ s hc => exec_unconfigured _ s hc nofun, fun l r s hc =>
    ⟨_, exec_setdec_configured l r hc, onlyBuffers_respond .ok rfl, setDecimals_lbuf_bit l r s,
      setDecimals_rbuf_bit l r s⟩⟩

/-! ### SETPIX -/

@[simp] theorem pix_respond (st : Status) (s : State) (x : Fin 10) (y : Fin 8) :
    pix (respond st s) x y = pix s x y := rfl

/-- Settles O14: out of range nothing is written, and in range there is one WritePix, whose effect is known bit by
bit and pixel by pixel. -/
theorem setPixelWritesOneBit : Obligations.SetPixelWritesOneBit := by
  refine ⟨encode_setpix_eq_or, fun b x y s hc => exec_unconfigured _ s hc nofun,
    fun b x y s hc hr => execSetpix_outOfRange b x y s hc hr, fun b x y s hc hx hy =>
      ⟨_, execSetpix_inRange b x y s hc (by omega) (by omega), onlyBuffers_respond .ok (writePix_eq _ _ b s),
        fun i k => ?_, fun i k => ?_, fun x' y' => ?_⟩⟩
  · simp only [respond_lbuf, writePix_lbuf_bit, eq_comm (a := i.val)]
  · simp only [respond_rbuf, writePix_rbuf_bit, eq_comm (a := i.val)]
  · simp only [pix_respond, pix_writePix, Fin.ext_iff]

/-! ### CLEAR -/

/-- CLEAR on a configured controller (R140). -/
theorem exec_clear_configured {s : State} (hc : s.configured = true) :
    exec .clear s = .next (respond .ok (clearBuffers s)) := by
  rw [exec, execClear, requireConfigured_true hc, returnOk]

theorem pix_clearBuffers (s : State) (x : Fin 10) (y : Fin 8) : pix (clearBuffers s) x y = false := by
  unfold pix
  split <;> simp

theorem ldp_clearBuffers (s : State) : ldp (clearBuffers s) = false := by
  simp [ldp]

theorem rdp_clearBuffers (s : State) : rdp (clearBuffers s) = false := by
  simp [rdp]

/-- Settles O12: with all bytes zero every pixel and both decimal points are. -/
theorem clearZeroesBothBuffers : Obligations.ClearZeroesBothBuffers :=
  ⟨rfl, fun s hc => exec_unconfigured .clear s hc nofun, fun s hc =>
    ⟨_, exec_clear_configured hc, onlyBuffers_respond .ok rfl, fun i => by simp, pix_clearBuffers s,
      ldp_clearBuffers s, rdp_clearBuffers s⟩⟩

end Sys2Proof.Machine
end

section
/-! PROOFS. The character commands of 43_character_ops.md: SETCHR (R160) and SETPAIR (R163). -/

namespace Sys2Proof.Machine

open Sys2Proof.Claims

/-! ### The words of format C and format T -/

theorem encode_setchr_eq_or (xo ch : BitVec 8) :
    encode (.setchr xo ch) = 0x60000000#32 ||| (xo.setWidth 32 <<< 8) ||| ch.setWidth 32 :=
  BitVec.eq_of_toNat_eq <|
    (encode_setchr_toNat xo ch).trans (or_operands_toNat 0x60000000#32 xo ch (by decide) rfl).symm

theorem encode_setpair_eq_or (len : BitVec 4) (c0 c1 : BitVec 8) :
    encode (.setpair len c0 c1) =
      0x70000000#32 ||| (len.setWidth 32 <<< 16) ||| (c0.setWidth 32 <<< 8) ||| c1.setWidth 32 :=
  BitVec.eq_of_toNat_eq <|
    (encode_setpair_toNat len c0 c1).trans (or_three_operands_toNat 0x70000000#32 len c0 c1 (by decide) rfl).symm

/-! ### One glyph in the buffers -/

/-- PutChar stays in columns 0 to 9, so the bits that hold no pixel are as before (R160). -/
theorem putGlyph_sameOutsidePixels (xo : Fin 6) (g : Glyph) (s : State) : SameOutsidePixels s (putGlyph xo g s) := by
  refine ⟨fun i b hi => ?_, fun i b hb => ?_⟩
  · rw [putGlyph_lbuf_bit, dif_neg (by omega)]
  · rw [putGlyph_rbuf_bit, dif_neg (by omega)]

theorem respond_sameOutsidePixels {st : Status} {s t : State} (h : SameOutsidePixels s t) :
    SameOutsidePixels s (respond st t) := h

/-- PutChar on the left buffer, by whole bytes (R161). -/
theorem putGlyph_lbuf_byte (xo : Fin 6) (g : Glyph) (s : State) (i : Fin 8) :
    (putGlyph xo g s).lbuf[i.val] =
      if h : xo.val ≤ i.val ∧ i.val ≤ 4 then g[i.val - xo.val] else s.lbuf[i.val] := by
  apply BitVec.eq_of_getLsbD_eq
  intro k hk
  rw [putGlyph_lbuf_bit xo g s i ⟨k, hk⟩]
  split <;> rfl

/-- At offset 5 a glyph leaves the left buffer as it is (R161). -/
theorem putGlyph_five_lbuf (g : Glyph) (s : State) : (putGlyph 5 g s).lbuf = s.lbuf := by
  apply buffer_ext_bits
  intro i k
  rw [putGlyph_lbuf_bit, dif_neg (by simp; omega)]

/-- At offset 0 the left matrix is the glyph, column by column (R161). -/
theorem putGlyph_zero_lbuf_byte (g : Glyph) (s : State) (i : Fin 8) :
    (putGlyph 0 g s).lbuf[i.val] = if h : i.val ≤ 4 then g[i.val] else s.lbuf[i.val] := by
  simp [putGlyph_lbuf_byte]

/-- At offset 5 the right matrix is the glyph, transposed (R162). -/
theorem putGlyph_five_rbuf_bit (g : Glyph) (s : State) (y b : Fin 8) :
    (putGlyph 5 g s).rbuf[y.val].getLsbD b.val =
      if h : b.val ≤ 4 then g[b.val].getLsbD y.val else s.rbuf[y.val].getLsbD b.val := by
  simp [putGlyph_rbuf_bit, Nat.lt_succ_iff]

/-- With bit 7 of every ROM byte 0, every glyph has an empty row 7 (R112). -/
theorem glyph_row7_of_fontOk {c : Config} (hf : c.FontOk) {code : Nat} {g : Glyph} (h : lookup c.font code = some g)
    (i : Fin 5) : g[i.val].getLsbD 7 = false := by
  have hc : 32 ≤ code ∧ code ≤ 126 := (lookup_isSome_iff c.font code).1 (by simp [h])
  rw [lookup_eq_some_fontRead c.font hc] at h
  cases h
  rw [fontRead_getElem]
  exact hf _ _

/-! ### SETCHR -/

/-- Settles O18: the checks come before any write, and with good operands there is one PutChar, whose effect is known
pixel by pixel. -/
theorem setCharacterWritesFortyPixels : Obligations.SetCharacterWritesFortyPixels := by
  refine ⟨encode_setchr_eq_or, fun xo ch s hc => exec_unconfigured _ s hc nofun,
    fun xo ch s hc hbad => execSetchr_badCode hc (lookup_eq_none_of _ hbad),
    fun xo ch s hc hlo hhi hx => ?_, fun xo ch s hc hlo hhi hx => ?_⟩
  · obtain ⟨g, hg⟩ := lookup_isSome_of s.cfg.font hlo hhi
    exact execSetchr_badOffset hc hg hx
  · obtain ⟨g, hg⟩ := lookup_isSome_of s.cfg.font hlo hhi
    refine ⟨g, _, hg, execSetchr_ok hc hg (by omega), onlyBuffers_respond .ok (putGlyph_eq _ g s),
      respond_sameOutsidePixels (putGlyph_sameOutsidePixels _ g s), fun x y => ?_, fun hf x hxo hx4 => ?_⟩
    · rw [pix_respond, pix_putGlyph]
    · rw [pix_respond, pix_putGlyph, dif_pos ⟨hxo, hx4⟩]
      exact glyph_row7_of_fontOk hf hg ⟨x.val - xo.toNat, by omega⟩

/-! ### SETPAIR -/

/-- Settles O20: the left glyph is written once the length and the first code are good, and the right glyph, which
stays out of the left buffer, after it. -/
theorem setPairWritesBothGlyphs : Obligations.SetPairWritesBothGlyphs := by
  refine ⟨encode_setpair_eq_or, fun len c0 c1 s hc => exec_unconfigured _ s hc nofun,
    fun len c0 c1 s hc hlen => execSetpair_length hc fun h => hlen (by rw [h]; rfl),
    fun c0 c1 s hc hbad => execSetpair_firstBad hc (lookup_eq_none_of _ hbad),
    fun c0 c1 g0 s hc h0 hbad => ?_, fun c0 c1 g0 g1 s hc h0 h1 => ?_⟩
  · refine ⟨_, execSetpair_secondBad hc h0 (lookup_eq_none_of _ hbad), onlyBuffers_respond .errGlyph
      (putGlyph_eq 0 g0 s), ?_, fun i => ?_⟩
    · rw [respond_rbuf, putGlyph_zero_rbuf]
    · rw [respond_lbuf, putGlyph_zero_lbuf_byte]
  · refine ⟨_, execSetpair_ok hc h0 h1, onlyBuffers_respond .ok
      (buffersOnly_trans (putGlyph_eq 0 g0 s) (putGlyph_eq 5 g1 _)), fun i => ?_, fun y b => ?_⟩
    · rw [respond_lbuf, putGlyph_five_lbuf, putGlyph_zero_lbuf_byte]
    · rw [respond_rbuf, putGlyph_five_rbuf_bit, putGlyph_zero_rbuf]

end Sys2Proof.Machine
end

section
/-! PROOFS. The sequencer of 44_show.md: SHOW, its six writes (R180, R181) and its first failure (R182). -/

namespace Sys2Proof.Machine

open Sys2Proof.Claims

/-- Settles O23: the CONFIGURED check comes before the sequencer, which goes from one write to the next on a success
alone. -/
theorem showSendsSixWritesInOrder : Obligations.ShowSendsSixWritesInOrder :=
  ⟨rfl, fun s hc => exec_unconfigured .showFrame s hc nofun, execShowFrame_ok, execShowFrame_fails⟩

end Sys2Proof.Machine
end

section
/-! PROOFS. The errors of 60_exceptions.md: the statuses of R200, the illegal word (R206), the controller before CONSTRUCT
(R207) and the order in which conditions are reported (R209). -/

namespace Sys2Proof.Machine

open Sys2Proof.Claims

/-! ### The step on a word -/

theorem step_of_decode_ok {s : State} {w : Word} {i : Instr} {rest : List HostInput} (hp : s.port = .word w :: rest)
    (hd : decode w = .ok i) : step s = exec i { s with port := rest } := by
  simp only [step, hp, hd]

/-- R206: the only effect of an illegal word. -/
theorem step_of_decode_error {s : State} {w : Word} {e : DecodeError} {rest : List HostInput}
    (hp : s.port = .word w :: rest) (hd : decode w = .error e) :
    step s = .next (respond .errIllegal { s with port := rest }) := by
  simp only [step, hp, hd, illegalWord, raise]

theorem decode_error_iff_no_row (w : Word) : (∃ e, decode w = .error e) ↔ ∀ m, ¬ Spells w m := by
  constructor
  · rintro ⟨e, he⟩ m hm
    obtain ⟨i, hi, -⟩ := exists_decode_of_spells hm
    cases he.symm.trans hi
  · intro hno
    cases hd : decode w with
    | error e => exact ⟨e, rfl⟩
    | ok i => exact absurd (spells_of_decode hd) (hno i.mnemonic)

/-- Settles O5: the decoder rejects the words of no row, and the step on a rejected word only returns its status. -/
theorem illegalWordOnlyReturnsItsStatus : Obligations.IllegalWordOnlyReturnsItsStatus :=
  ⟨decode_error_iff_no_row, fun _ _ _ _ hp hd => step_of_decode_error hp hd⟩

/-- Settles O26: the step is the command on the state with its word taken, and that state is still unconfigured. -/
theorem unconfiguredCommandsOnlyReturnTheirStatus : Obligations.UnconfiguredCommandsOnlyReturnTheirStatus := by
  intro s w i rest hc hp hd hi
  exact (step_of_decode_ok hp hd).trans (exec_unconfigured i { s with port := rest } hc hi)

/-! ### One status of the command's own -/

/-- Settles O28: every effect a command can have adds one status, which its row of R200 names. -/
theorem everyCommandReturnsOneOfItsStatuses : Obligations.EveryCommandReturnsOneOfItsStatuses := by
  refine ⟨⟨rfl, rfl, rfl, rfl, rfl, rfl, rfl, rfl⟩, fun i s t h => ?_⟩
  cases exec_effect h with
  | refused st _ hm ht => exact ⟨st, by rw [ht, respond_responses], hm⟩
  | constructed addr lvl hi _ ht => exact ⟨.ok, by simp [ht], by simp [hi, statusesOf]⟩
  | buffers st _ hm _ _ he => exact ⟨st, by rw [he.only], hm⟩
  | bright lvl hi _ ht => exact ⟨.ok, by simp [ht], by simp [hi, statusesOf]⟩
  | transmitted lvl o hi _ _ ht =>
    exact ⟨if o = .success then .ok else .errTransmit, by simp [ht], by cases o <;> simp [hi, statusesOf]⟩
  | shown hi _ _ ht => exact ⟨.ok, by rw [ht], by simp [hi, statusesOf]⟩
  | showFailed k hi _ _ _ _ ht => exact ⟨.errTransmit, by rw [ht], by simp [hi, statusesOf]⟩

/-! ### The first condition that applies -/

/-- The command `i` ends from `s`, with `st` as its one status. -/
def Reports (i : Instr) (s : State) (st : Status) : Prop :=
  ∃ t, exec i s = .next t ∧ t.responses = s.responses ++ [st]

/-- A command that ends with `st` in a state with the statuses of `s` so far reports `st`. -/
theorem Reports.of_respond {i : Instr} {s t : State} {st : Status} (h : exec i s = .next (respond st t))
    (ht : t.responses = s.responses) : Reports i s st :=
  ⟨_, h, by rw [respond_responses, ht]⟩

theorem printable_of_lookup_some {font : FontRom} {c : BitVec 8} {g : Glyph} (h : lookup font c.toNat = some g) :
    printable c = true :=
  (printable_iff font c).2 ⟨g, h⟩

theorem printable_of_lookup_none {font : FontRom} {c : BitVec 8} (h : lookup font c.toNat = none) :
    printable c = false :=
  Bool.eq_false_iff.2 fun hp => by
    obtain ⟨g, hg⟩ := (printable_iff font c).1 hp
    cases h.symm.trans hg

theorem construct_reports (addr : BitVec 8) (lvl : BitVec 16) (s : State) :
    Reports (.construct addr lvl) s ((operandError (.construct addr lvl)).getD .ok) := by
  rw [operandError]
  cases hl : legalAddress addr with
  | true =>
    rw [if_pos ((legalAddress_iff addr).1 hl)]
    exact .of_respond (exec_construct_legal hl lvl s) rfl
  | false =>
    rw [if_neg ((legalAddress_iff addr).not.1 (by simp [hl]))]
    exact .of_respond (exec_construct_illegal hl lvl s) rfl

theorem setpix_reports (b : Bool) (x y : BitVec 8) {s : State} (hc : s.configured = true) :
    Reports (.setpix b x y) s ((operandError (.setpix b x y)).getD .ok) := by
  rw [operandError]
  split_ifs with hr
  · exact .of_respond (execSetpix_outOfRange b x y s hc hr) rfl
  · exact .of_respond (execSetpix_inRange b x y s hc (by omega) (by omega)) (by simp)

theorem setchr_reports (xo ch : BitVec 8) {s : State} (hc : s.configured = true) :
    Reports (.setchr xo ch) s ((operandError (.setchr xo ch)).getD .ok) := by
  rw [operandError]
  cases hg : lookup s.cfg.font ch.toNat with
  | none =>
    rw [printable_of_lookup_none hg]
    exact .of_respond (execSetchr_badCode hc hg) rfl
  | some g =>
    rw [printable_of_lookup_some hg, if_neg (by decide)]
    split_ifs with hx
    · exact .of_respond (execSetchr_badOffset hc hg hx) rfl
    · exact .of_respond (execSetchr_ok hc hg (by omega)) (by simp)

theorem setpair_reports (len : BitVec 4) (c0 c1 : BitVec 8) {s : State} (hc : s.configured = true) :
    Reports (.setpair len c0 c1) s ((operandError (.setpair len c0 c1)).getD .ok) := by
  rw [operandError]
  by_cases hlen : len = 2#4
  case neg =>
    have hn : len.toNat ≠ 2 := fun h => hlen (BitVec.eq_of_toNat_eq h)
    rw [if_pos hn]
    exact .of_respond (execSetpair_length hc hlen) rfl
  subst hlen
  rw [if_neg (by decide)]
  cases h₀ : lookup s.cfg.font c0.toNat with
  | none =>
    rw [printable_of_lookup_none h₀]
    exact .of_respond (execSetpair_firstBad hc h₀) rfl
  | some g =>
    rw [printable_of_lookup_some h₀, if_neg (by decide)]
    cases h₁ : lookup s.cfg.font c1.toNat with
    | none =>
      rw [printable_of_lookup_none h₁]
      exact .of_respond (execSetpair_secondBad hc h₀ h₁) (by simp)
    | some g' =>
      rw [printable_of_lookup_some h₁, if_neg (by decide)]
      exact .of_respond (execSetpair_ok hc h₀ h₁) (by simp)

/-- Past the CONFIGURED check, a command without bus writes reports its first bad operand, or OK (ranks 3 to 5). -/
theorem reports_of_quiet {i : Instr} {s : State} (hq : quiet i = true)
    (hc : i.mnemonic ≠ .construct → s.configured = true) : Reports i s ((operandError i).getD .ok) := by
  cases i with
  | construct addr lvl => exact construct_reports addr lvl s
  | clear => exact .of_respond (exec_clear_configured (hc nofun)) rfl
  | setbrt t lvl =>
    cases t
    · exact .of_respond (exec_setbrt_quiet lvl (hc nofun)) rfl
    · cases hq
  | setdec l r => exact .of_respond (exec_setdec_configured l r (hc nofun)) rfl
  | setpix b x y => exact setpix_reports b x y (hc nofun)
  | setchr xo ch => exact setchr_reports xo ch (hc nofun)
  | setpair len c0 c1 => exact setpair_reports len c0 c1 (hc nofun)
  | showFrame => cases hq

/-- The two commands that use the bus (20_memory.md R60, R63). -/
theorem setbrt_or_showFrame_of_not_quiet {i : Instr} (h : quiet i = false) :
    (∃ lvl, i = .setbrt true lvl) ∨ i = .showFrame := by
  cases i with
  | setbrt t lvl =>
    cases t
    · cases h
    · exact .inl ⟨lvl, rfl⟩
  | showFrame => exact .inr rfl
  | _ => cases h

/-- A command with a checked operand stays off the bus, so ranks 3 to 5 and rank 6 are never both in question. -/
theorem quiet_of_operandError {i : Instr} {st : Status} (h : operandError i = some st) : quiet i = true := by
  by_contra hq
  obtain ⟨lvl, rfl⟩ | rfl := setbrt_or_showFrame_of_not_quiet (Bool.eq_false_iff.2 hq) <;> cases h

/-- The CONFIGURED check either gives the status or leaves it to the operand checks (ranks 2 to 5). -/
theorem firstError_cases (i : Instr) (s : State) :
    (s.configured = false ∧ i.mnemonic ≠ .construct ∧ firstError i s = some .errUnconfigured) ∨
    ((i.mnemonic ≠ .construct → s.configured = true) ∧ firstError i s = operandError i) := by
  unfold firstError
  split_ifs with hun
  · exact .inl ⟨hun.1, hun.2, rfl⟩
  · exact .inr ⟨fun hi => by simpa [hi] using hun, rfl⟩

/-- A command that ranks 2 to 5 let pass is on a configured controller, or CONSTRUCT, and its operands are good. -/
theorem passes_of_firstError_eq_none {i : Instr} {s : State} (h : firstError i s = none) :
    (i.mnemonic ≠ .construct → s.configured = true) ∧ operandError i = none := by
  obtain ⟨-, -, he⟩ | ⟨hc, he⟩ := firstError_cases i s
  · cases h.symm.trans he
  · exact ⟨hc, he.symm.trans h⟩

/-- Ranks 2 to 5: the first of CONFIGURED and the operand checks that fails is the status. -/
theorem reports_firstError {i : Instr} {s : State} {st : Status} (h : firstError i s = some st) : Reports i s st := by
  obtain ⟨hc, hi, he⟩ | ⟨hc, he⟩ := firstError_cases i s
  · cases he.symm.trans h
    exact .of_respond (exec_unconfigured i s hc hi) rfl
  · have ho : operandError i = some st := he.symm.trans h
    have hr := reports_of_quiet (quiet_of_operandError ho) hc
    rwa [ho] at hr

/-- Rank 6: with no earlier condition, the first failing bus write gives ERR_TRANSMIT. -/
theorem reports_errTransmit {i : Instr} {s : State} {k : Nat} (h : firstError i s = none) (hk : k < writesOf i)
    (ha : ∀ j < k, answerAt s j = some .success) (hf : answerAt s k = some .failure) :
    Reports i s .errTransmit := by
  obtain ⟨hc, -⟩ := passes_of_firstError_eq_none h
  have hq : quiet i = false := by
    by_contra hq
    rw [writesOf_eq_zero_of_quiet (by simpa using hq)] at hk
    exact Nat.not_lt_zero k hk
  obtain ⟨lvl, rfl⟩ | rfl := setbrt_or_showFrame_of_not_quiet hq
  · obtain rfl : k = 0 := Nat.lt_one_iff.1 hk
    exact .of_respond (execSetbrt_answered lvl .failure s (hc nofun) hf) rfl
  · exact ⟨_, execShowFrame_fails s k (hc nofun) hk ha hf, rfl⟩

/-- With no condition of the table, the command reports OK. -/
theorem reports_ok {i : Instr} {s : State} (h : firstError i s = none)
    (ha : ∀ j < writesOf i, answerAt s j = some .success) : Reports i s .ok := by
  obtain ⟨hc, ho⟩ := passes_of_firstError_eq_none h
  cases hq : quiet i with
  | true =>
    have hr := reports_of_quiet hq hc
    rwa [ho] at hr
  | false =>
    obtain ⟨lvl, rfl⟩ | rfl := setbrt_or_showFrame_of_not_quiet hq
    · exact .of_respond (execSetbrt_answered lvl .success s (hc nofun) (ha 0 Nat.one_pos)) rfl
    · exact ⟨_, execShowFrame_ok s (hc nofun) ha, rfl⟩

/-- Settles O27: a word of no row ends before every other check; the rest is `reports_firstError`,
`reports_errTransmit` and `reports_ok`. -/
theorem statusIsTheFirstConditionThatApplies : Obligations.StatusIsTheFirstConditionThatApplies := by
  refine ⟨fun s w rest hp hno => ?_, fun _ _ _ => reports_firstError, fun _ _ _ => reports_errTransmit,
    fun _ _ => reports_ok⟩
  obtain ⟨e, he⟩ := (decode_error_iff_no_row w).2 hno
  exact ⟨_, step_of_decode_error hp he, rfl⟩

end Sys2Proof.Machine
end

section
/-! PROOFS. The round trip between words and commands and the assembler's lines (30_encoding.md sections 1 and 5). -/

namespace Sys2Proof

open Sys2Proof.Machine Sys2Proof.Claims

/-! ### Decoding and encoding -/

/-- A word that decodes is put together again from the fields that the decoder took out of it: those fields, the opcode
and the reserved zeros are all its bits (R81). -/
theorem encode_of_decode {w : Word} {i : Instr} (h : decode w = .ok i) : encode i = w := by
  have hw := w.isLt
  apply BitVec.eq_of_toNat_eq
  obtain ⟨ho, hz, rfl⟩ | ⟨ho, hz, rfl⟩ | ⟨ho, hz, rfl⟩ | ⟨ho, hz, rfl, -, -⟩ | ⟨ho, hz, rfl⟩ | ⟨ho, hz, rfl⟩ |
    ⟨ho, hz, rfl⟩ | ⟨ho, hz, rfl⟩ := decode_ok_cases h
  · simp only [encode_construct_toNat, field_toNat]; omega
  · simp only [encode_clear_toNat]; omega
  · simp only [encode_setbrt_toNat, bit16_toNat, field_toNat]; omega
  · simp only [encode_setdec_toNat, field_toNat]; omega
  · simp only [encode_setpix_toNat, bit16_toNat, field_toNat]; omega
  · simp only [encode_setchr_toNat, field_toNat]; omega
  · simp only [encode_setpair_toNat, field_toNat]; omega
  · simp only [encode_showFrame_toNat]; omega

/-- The decoder's own test of the tri-state codes is all that well-formedness asks (R86). -/
theorem wellFormed_of_decode {w : Word} {i : Instr} (h : decode w = .ok i) : i.wellFormed = true := by
  obtain ⟨-, -, htri⟩ := decode_ok_row h
  obtain ⟨-, -, rfl⟩ | ⟨-, -, rfl⟩ | ⟨-, -, rfl⟩ | ⟨-, -, rfl, hl, hr⟩ | ⟨-, -, rfl⟩ | ⟨-, -, rfl⟩ |
    ⟨-, -, rfl⟩ | ⟨-, -, rfl⟩ := decode_ok_cases h
  case inr.inr.inr.inl => simp [Instr.wellFormed, triOk, hl, hr]
  all_goals rfl

/-- Settles O3: no bit of a word that decodes is dropped, and the decoder lets no reserved tri-state code pass. -/
theorem encodeUndoesDecode : Obligations.EncodeUndoesDecode :=
  fun _ _ h => ⟨wellFormed_of_decode h, encode_of_decode h⟩

theorem bool_toNat_inj {a b : Bool} : a.toNat = b.toNat ↔ a = b := by cases a <;> cases b <;> decide

/-- Within a row of the opcode map, different operands give different words: no two fields of a format overlap (R81). -/
theorem encode_injective_on_row {i j : Instr} (hm : i.mnemonic = j.mnemonic) (h : encode i = encode j) : i = j := by
  have hn := congrArg BitVec.toNat h
  cases i <;> cases j <;> cases hm
  case construct.construct =>
    simp only [encode_construct_toNat] at hn
    simp only [Instr.construct.injEq, ← BitVec.toNat_inj]; omega
  case clear.clear => rfl
  case setbrt.setbrt t _ t' _ =>
    simp only [encode_setbrt_toNat] at hn
    have := t.toNat_lt
    have := t'.toNat_lt
    simp only [Instr.setbrt.injEq, ← BitVec.toNat_inj, ← bool_toNat_inj]; omega
  case setdec.setdec =>
    simp only [encode_setdec_toNat] at hn
    simp only [Instr.setdec.injEq, ← BitVec.toNat_inj]; omega
  case setpix.setpix b _ _ b' _ _ =>
    simp only [encode_setpix_toNat] at hn
    have := b.toNat_lt
    have := b'.toNat_lt
    simp only [Instr.setpix.injEq, ← BitVec.toNat_inj, ← bool_toNat_inj]; omega
  case setchr.setchr =>
    simp only [encode_setchr_toNat] at hn
    simp only [Instr.setchr.injEq, ← BitVec.toNat_inj]; omega
  case setpair.setpair =>
    simp only [encode_setpair_toNat] at hn
    simp only [Instr.setpair.injEq, ← BitVec.toNat_inj]; omega
  case showFrame.showFrame => rfl

/-- The word of a command lies in its row of the opcode map (R82). -/
theorem encode_in_row (i : Instr) : encode i &&& i.mnemonic.maskWord = i.mnemonic.matchWord := by
  cases i with
  | construct addr lvl => exact Laws.OpcodeRow.construct addr lvl
  | clear => exact Laws.OpcodeRow.clear
  | setbrt t lvl => exact Laws.OpcodeRow.setbrt t lvl
  | setdec l r => exact Laws.OpcodeRow.setdec l r
  | setpix s x y => exact Laws.OpcodeRow.setpix s x y
  | setchr xo ch => exact Laws.OpcodeRow.setchr xo ch
  | setpair len c0 c1 => exact Laws.OpcodeRow.setpair len c0 c1
  | showFrame => exact Laws.OpcodeRow.showFrame

theorem field_encode_setdec (l r : BitVec 2) :
    field (encode (.setdec l r)) 2 2 = l ∧ field (encode (.setdec l r)) 0 2 = r := by
  simp only [field_eq_iff, encode_setdec_toNat]
  omega

/-- A well-formed command's word is spelled by its row, the tri-state codes included (R82, R86). -/
theorem spells_encode {i : Instr} (h : i.wellFormed = true) : Spells (encode i) i.mnemonic := by
  refine ⟨encode_in_row i, fun hm => ?_⟩
  cases i <;> cases hm
  case setdec l r =>
    obtain ⟨hl, hr⟩ := field_encode_setdec l r
    simp only [field] at hl hr
    simpa [Instr.wellFormed, triOk, hl, hr] using h

/-- The word of a well-formed command decodes to a command of its row that has the same word, so to itself (R81, R83). -/
theorem decode_encode {i : Instr} (h : i.wellFormed = true) : decode (encode i) = .ok i := by
  obtain ⟨j, hj, hm⟩ := exists_decode_of_spells (spells_encode h)
  rw [hj, encode_injective_on_row hm (encode_of_decode hj)]

/-- Settles O2: a row spells the word of each of its well-formed commands, and encoding is injective on the row. -/
theorem decodeUndoesEncode : Obligations.DecodeUndoesEncode := fun _ => decode_encode

/-- Settles O1 by running the decoder on each word. -/
theorem specWordsDecodeAsWritten : Obligations.SpecWordsDecodeAsWritten :=
  ⟨rfl, rfl, rfl, rfl, rfl, rfl, rfl, rfl, rfl, rfl, rfl, rfl, rfl⟩

/-! ### The assembler -/

/-- `#n` is `n AND 0xFFFF` (R95). -/
theorem quantise_raw_toNat (n : Int) : ((Asm.quantise (.raw n)).toNat : Int) = n % 0x10000 := by
  rw [Asm.quantise, BitVec.toNat_ofInt]
  omega

/-- The integer quotient that the assembler computes is the exact `floor(v × 256 + 1/2)` for `v = num / den` (R95). -/
theorem floor_fraction (num : Int) {den : Nat} (hd : 0 < den) :
    ⌊(num : ℚ) / (den : ℚ) * 256 + 1 / 2⌋ = (num * 512 + den) / (2 * (den : Int)) := by
  have hden : (den : ℚ) ≠ 0 := by positivity
  have hv : (num : ℚ) / (den : ℚ) * 256 + 1 / 2 = ((num * 512 + den : Int) : ℚ) / ((2 * den : Nat) : ℚ) := by
    push_cast
    field_simp
    ring
  rw [hv, Rat.floor_intCast_div_natCast]
  push_cast
  rfl

theorem quantise_fraction_toNat (num : Int) {den : Nat} (hd : 0 < den) :
    ((Asm.quantise (.fraction num den)).toNat : Int) = ⌊(num : ℚ) / (den : ℚ) * 256 + 1 / 2⌋ % 0x10000 := by
  rw [Asm.quantise, floor_fraction num hd, BitVec.toNat_ofInt]
  omega

/-- `CONSTRUCT a` is CONSTRUCT with the level 0.1, whose numerator is 0x1A (R96). -/
theorem constructDefault_word (a : Byte) :
    (Asm.Line.constructDefault a).word = 0x1000001A#32 ||| (a.setWidth 32 <<< 16) := by
  have hq : Asm.quantise (.fraction 1 10) = 0x1A#16 := rfl
  rw [Asm.Line.word, Asm.Line.expand, encode_construct_eq_or, hq, BitVec.or_assoc,
    BitVec.or_comm (a.setWidth 32 <<< 16), ← BitVec.or_assoc]
  rfl

theorem setbrt_word (v : Asm.Level) :
    (Asm.Line.setbrt v).word = 0x30000000#32 ||| (Asm.quantise v).setWidth 32 := by
  rw [Asm.Line.word, Asm.Line.expand, encode_setbrt_eq_or]
  rfl

theorem setbrtTransmit_word (v : Asm.Level) :
    (Asm.Line.setbrtTransmit v).word = 0x30010000#32 ||| (Asm.quantise v).setWidth 32 := by
  rw [Asm.Line.word, Asm.Line.expand, encode_setbrt_eq_or]
  rfl

/-- Settles O6: quantising is exact, and a line's word is the format's fields put together with `or`. -/
theorem assemblyLinesGiveTheTabulatedWords : Obligations.AssemblyLinesGiveTheTabulatedWords :=
  ⟨quantise_raw_toNat, fun num _ hd => quantise_fraction_toNat num hd, rfl, rfl, rfl,
    fun a v => encode_construct_eq_or a (Asm.quantise v), setbrt_word, setbrtTransmit_word,
    fun l r => encode_setdec_eq_or l.code r.code, fun x y s => encode_setpix_eq_or s x y, encode_setchr_eq_or,
    encode_setpair_eq_or, rfl, rfl, constructDefault_word, fun _ => rfl, fun _ => rfl, fun _ => rfl⟩

end Sys2Proof
end

section
/-! PROOFS. Rules over all commands and states: who writes what (10_state.md sections 1 and 2), what goes on the bus
(20_memory.md) and what no command reads (R31, R33). -/

namespace Sys2Proof.Machine

open Sys2Proof.Claims

/-! ### What every command keeps -/

/-- No command touches the host's inputs or counts a reset. -/
theorem exec_port_resets {i : Instr} {s t : State} (h : exec i s = .next t) :
    t.port = s.port ∧ t.resets = s.resets := by
  cases exec_effect h with
  | refused st _ _ ht => simp [ht]
  | constructed addr lvl _ _ ht => simp [ht]
  | buffers st _ _ _ _ he => rw [he.only]; exact ⟨rfl, rfl⟩
  | bright lvl _ _ ht => simp [ht]
  | transmitted lvl o _ _ _ ht => simp [ht]
  | shown _ _ _ ht => simp [ht]
  | showFailed k _ _ _ _ _ ht => simp [ht]

/-- ADDR and CONFIGURED are written by a CONSTRUCT that ends OK, which sets CONFIGURED, and by nothing else (R20). -/
theorem exec_addr_configured {i : Instr} {s t : State} (h : exec i s = .next t) :
    (i.mnemonic = .construct ∧ t.responses = s.responses ++ [.ok] ∧ t.configured = true) ∨
    (¬ (i.mnemonic = .construct ∧ t.responses = s.responses ++ [.ok]) ∧
      t.addr = s.addr ∧ t.configured = s.configured) := by
  cases exec_effect h with
  | refused st hst _ ht => exact .inr ⟨by simp [ht, hst], by simp [ht], by simp [ht]⟩
  | constructed addr lvl hi _ ht => exact .inl ⟨by rw [hi, Instr.mnemonic], by simp [ht], by simp [ht]⟩
  | buffers st _ _ _ hi he => exact .inr ⟨fun hc => hi hc.1, by rw [he.only], by rw [he.only]⟩
  | bright lvl hi _ ht => exact .inr ⟨by simp [hi, Instr.mnemonic], by simp [ht], by simp [ht]⟩
  | transmitted lvl o hi _ _ ht => exact .inr ⟨by simp [hi, Instr.mnemonic], by simp [ht], by simp [ht]⟩
  | shown hi _ _ ht => exact .inr ⟨by simp [hi, Instr.mnemonic], by simp [ht], by simp [ht]⟩
  | showFailed k hi _ _ _ _ ht => exact .inr ⟨by simp [hi, Instr.mnemonic], by simp [ht], by simp [ht]⟩

/-! ### Writers of the state elements -/

/-- The buffers are written by the buffer commands; one that ends in an error is SETPAIR, which has left the right
buffer alone (R20, R210). -/
theorem exec_buffers {i : Instr} {s t : State} (h : exec i s = .next t) :
    (t.lbuf = s.lbuf ∧ t.rbuf = s.rbuf) ∨
    (writesBuffers i = true ∧
      (t.responses ≠ s.responses ++ [.ok] → i.mnemonic = .setpair ∧ t.rbuf = s.rbuf)) := by
  cases exec_effect h with
  | refused st _ _ ht => exact .inl ⟨by simp [ht], by simp [ht]⟩
  | constructed addr lvl hi _ ht => exact .inr ⟨by rw [hi, writesBuffers], fun hr => absurd (by simp [ht]) hr⟩
  | buffers st _ _ hw _ he =>
    refine .inr ⟨hw, fun hr => ?_⟩
    have hst : st ≠ .ok := fun hst => hr (by rw [he.only, hst])
    obtain ⟨hi, -, hrbuf⟩ := he.part hst
    exact ⟨hi, hrbuf⟩
  | bright lvl _ _ ht => exact .inl ⟨by simp [ht], by simp [ht]⟩
  | transmitted lvl o _ _ _ ht => exact .inl ⟨by simp [ht], by simp [ht]⟩
  | shown _ _ _ ht => exact .inl ⟨by simp [ht], by simp [ht]⟩
  | showFailed k _ _ _ _ _ ht => exact .inl ⟨by simp [ht], by simp [ht]⟩

/-- BRIGHT under an error status is the work of SETBRT, since a CONSTRUCT that fails writes nothing (R210). -/
theorem setbrt_of_bright_ne_of_error {i : Instr} {s t : State} (h : exec i s = .next t) (hne : t.bright ≠ s.bright)
    (hr : t.responses ≠ s.responses ++ [.ok]) : i.mnemonic = .setbrt := by
  cases exec_effect h with
  | refused st _ _ ht => exact absurd (by simp [ht]) hne
  | constructed addr lvl _ _ ht => exact absurd (by simp [ht]) hr
  | buffers st _ _ _ _ he => exact absurd (by rw [he.only]) hne
  | bright lvl _ _ ht => exact absurd (by simp [ht]) hr
  | transmitted lvl o hi _ _ _ => rw [hi, Instr.mnemonic]
  | shown _ _ _ ht => exact absurd (by simp [ht]) hne
  | showFailed k _ _ _ _ _ ht => exact absurd (by simp [ht]) hne

theorem exec_seq {i : Instr} {s t : State} (h : exec i s = .next t) :
    t.seq = s.seq ∨ (i = .showFrame ∧ t.seq = none) := by
  cases exec_effect h with
  | refused st _ _ ht => exact .inl (by simp [ht])
  | constructed addr lvl _ _ ht => exact .inl (by simp [ht])
  | buffers st _ _ _ _ he => exact .inl (by rw [he.only])
  | bright lvl _ _ ht => exact .inl (by simp [ht])
  | transmitted lvl o _ _ _ ht => exact .inl (by simp [ht])
  | shown hi _ _ ht => exact .inr ⟨hi, by simp [ht]⟩
  | showFailed k hi _ _ _ _ ht => exact .inr ⟨hi, by simp [ht]⟩

/-- A command is off the bus, or it is one that may issue writes. -/
theorem sameBus_or_not_quiet {i : Instr} {s t : State} (h : exec i s = .next t) : SameBus s t ∨ quiet i = false := by
  cases hq : quiet i with
  | true => exact .inl (exec_sameBus_of_quiet hq h)
  | false => exact .inr rfl

/-- Settles O29: one lemma per element says which commands may write it, and under which status. -/
theorem elementsChangeOnlyByTheirWriters : Obligations.ElementsChangeOnlyByTheirWriters := by
  intro i s t h
  obtain ⟨hport, hresets⟩ := exec_port_resets h
  have hbuf := exec_buffers h
  have hbus := sameBus_or_not_quiet h
  have hcon (hne : t.addr ≠ s.addr ∨ t.configured ≠ s.configured) :
      i.mnemonic = .construct ∧ t.responses = s.responses ++ [.ok] := by
    obtain ⟨hi, hr, -⟩ | ⟨-, haddr, hconf⟩ := exec_addr_configured h
    · exact ⟨hi, hr⟩
    · exact absurd hne (by simp [haddr, hconf])
  refine ⟨?_, construct_or_setbrt_of_bright_ne h, fun hne => (hcon hne).1, fun hc => ?_, ?_, ?_, ?_, exec_cfg h, hport,
    hresets, ?_, ?_, setbrt_of_bright_ne_of_error h, fun hne => (hcon hne).2⟩
  · exact fun hne => (hbuf.resolve_left fun h => hne.elim (absurd h.1) (absurd h.2)).1
  · obtain ⟨-, -, ht⟩ | ⟨-, -, ht⟩ := exec_addr_configured h
    · exact ht
    · exact ht.trans hc
  · exact fun hne => ((exec_seq h).resolve_left hne).1
  · exact fun hne => hbus.resolve_left fun hb => hne.elim (absurd hb.trace) (absurd hb.shown)
  · exact fun hne => hbus.resolve_left fun hb => hne.elim (absurd hb.busScript) (absurd hb.busDraws)
  · exact fun hne hr => ((hbuf.resolve_left fun h => hne h.1).2 hr).1
  · exact fun hne => by_contra fun hr => hne ((hbuf.resolve_left fun h => hne h.2).2 hr).2

/-- Settles O22: every other effect keeps both flags, the buffer effects by their own clause. -/
theorem decimalPointsSurviveOtherCommands : Obligations.DecimalPointsSurviveOtherCommands := by
  intro i s t h hne
  have kept (hl : t.lbuf = s.lbuf) (hr : t.rbuf = s.rbuf) :
      i.mnemonic = .setdec ∨ i.mnemonic = .clear ∨ i.mnemonic = .construct := by
    simp [ldp, rdp, hl, hr, exec_cfg h] at hne
  cases exec_effect h with
  | refused st _ _ ht => exact kept (by simp [ht]) (by simp [ht])
  | constructed addr lvl hi _ _ => exact .inr (.inr (by rw [hi, Instr.mnemonic]))
  | buffers st _ _ _ _ he =>
    obtain hi | hi | ⟨hl, hr⟩ := he.flags
    · exact .inl hi
    · exact .inr (.inl hi)
    · exact absurd hne (by simp [hl, hr])
  | bright lvl _ _ ht => exact kept (by simp [ht]) (by simp [ht])
  | transmitted lvl o _ _ _ ht => exact kept (by simp [ht]) (by simp [ht])
  | shown _ _ _ ht => exact kept (by simp [ht]) (by simp [ht])
  | showFailed k _ _ _ _ _ ht => exact kept (by simp [ht]) (by simp [ht])

/-! ### The bus -/

/-- The new entries of TRACE that a command may add: to ADDR, of the register map, and every one but the last
successful (20_memory.md R52, R53, R60). -/
def LegalWrites (i : Instr) (s : State) (new : List BusWrite) : Prop :=
  (∀ e ∈ new, e.addr = s.addr ∧ InRegisterMap e.reg e.bytes) ∧
  (new ≠ [] → quiet i = false) ∧ new.length ≤ writesOf i ∧
  (∀ e ∈ new.dropLast, e.outcome = .success)

theorem legalWrites_nil (i : Instr) (s : State) : LegalWrites i s [] := by simp [LegalWrites]

theorem frameWrites_outcome {a : BitVec 7} {f : Frame} {e : BusWrite} (he : e ∈ frameWrites a f) :
    e.outcome = .success := by
  simp only [frameWrites, List.mem_cons, List.not_mem_nil, or_false] at he
  rcases he with rfl | rfl | rfl | rfl | rfl | rfl <;> rfl

/-- The writes of a SHOW that fails are the frame's first `k` and one more. -/
theorem failedFrameWrites_eq_concat (a : BitVec 7) (f : Frame) {k : Nat} (hk : k < 6) :
    ∃ e, failedFrameWrites a f k = (frameWrites a f).take k ++ [e] := by
  have hk' : k < (frameWrites a f).length := hk
  exact ⟨_, by rw [failedFrameWrites, List.getElem?_eq_getElem hk', Option.toList_some, List.map_singleton]⟩

theorem legalWrites_frame (s : State) : LegalWrites .showFrame s (frameWrites s.addr ⟨s.lbuf, s.rbuf, s.bright⟩) :=
  ⟨frameWrites_mapped _ _, fun _ => rfl, Nat.le_refl _, fun _ he => frameWrites_outcome (List.mem_of_mem_dropLast he)⟩

theorem legalWrites_failedFrame (s : State) {k : Nat} (hk : k < 6) :
    LegalWrites .showFrame s (failedFrameWrites s.addr ⟨s.lbuf, s.rbuf, s.bright⟩ k) := by
  refine ⟨failedFrameWrites_mapped _ _ k, fun _ => rfl, ?_, ?_⟩ <;>
    obtain ⟨e, he⟩ := failedFrameWrites_eq_concat s.addr ⟨s.lbuf, s.rbuf, s.bright⟩ hk
  · rw [he, List.length_append, List.length_take]
    exact Nat.succ_le_of_lt (Nat.lt_of_le_of_lt (Nat.min_le_left _ _) hk)
  · rw [he, List.dropLast_concat]
    exact fun _ hmem => frameWrites_outcome (List.mem_of_mem_take hmem)

theorem legalWrites_transmit (lvl : BitVec 16) (s : State) (b : BitVec 7) (o : BusOutcome) :
    LegalWrites (.setbrt true lvl) s [⟨s.addr, 0x19#8, [b.setWidth 8], o⟩] := by
  have hb : (b.setWidth 8).toNat ≤ 127 := by
    rw [BitVec.toNat_setWidth]
    omega
  have hmap : InRegisterMap 0x19#8 [b.setWidth 8] := .inr (.inr (.inr (.inr (.inl ⟨rfl, _, hb, rfl⟩))))
  exact ⟨fun e he => by rw [List.mem_singleton.1 he]; exact ⟨rfl, hmap⟩, fun _ => rfl, Nat.le_refl _, nofun⟩

/-- Settles O31: the commands that use the bus add the writes of a frame, or one brightness write. -/
theorem busWritesGoToAddrAndKnownRegisters : Obligations.BusWritesGoToAddrAndKnownRegisters := by
  intro i s t h
  obtain hb | hq := sameBus_or_not_quiet h
  · exact ⟨[], by rw [hb.trace, List.append_nil], legalWrites_nil i s⟩
  cases exec_effect h with
  | refused st _ _ ht => exact ⟨[], by simp [ht], legalWrites_nil i s⟩
  | constructed addr lvl hi _ _ => rw [hi] at hq; cases hq
  | buffers st _ _ _ _ he => exact ⟨[], by rw [he.only, List.append_nil], legalWrites_nil i s⟩
  | bright lvl hi _ _ => rw [hi] at hq; cases hq
  | transmitted lvl o hi _ _ ht =>
    subst hi
    exact ⟨_, by rw [ht]; rfl, legalWrites_transmit lvl s _ o⟩
  | shown hi _ _ ht =>
    subst hi
    exact ⟨_, by rw [ht], legalWrites_frame s⟩
  | showFailed k hi _ hk _ _ ht =>
    subst hi
    exact ⟨_, by rw [ht], legalWrites_failedFrame s hk⟩

/-! ### What no command reads -/

/-- `s` with other observations: TRACE, SHOWN and the statuses already returned (R33, R34, R93). -/
def withObservations (tr : List BusWrite) (sh : Option Frame) (rs : List Status) (s : State) : State :=
  { s with trace := tr, shown := sh, responses := rs }

theorem writePix_withObservations (x : Fin 10) (y : Fin 8) (b : Bool) (tr : List BusWrite) (sh : Option Frame)
    (rs : List Status) (s : State) :
    writePix x y b (withObservations tr sh rs s) = withObservations tr sh rs (writePix x y b s) := by
  unfold writePix
  split <;> rfl

/-- What commutes with writing a pixel commutes with the forty of a glyph (R160). -/
theorem putGlyph_comm_of_writePix {f : State → State}
    (hf : ∀ x y b s, writePix x y b (f s) = f (writePix x y b s)) (xo : Fin 6) (g : Glyph) (s : State) :
    putGlyph xo g (f s) = f (putGlyph xo g s) :=
  List.foldl_hom f fun _ _ => List.foldl_hom f fun s _ => hf _ _ _ s

theorem putGlyph_withObservations (xo : Fin 6) (g : Glyph) (tr : List BusWrite) (sh : Option Frame)
    (rs : List Status) (s : State) :
    putGlyph xo g (withObservations tr sh rs s) = withObservations tr sh rs (putGlyph xo g s) :=
  putGlyph_comm_of_writePix (fun x y b => writePix_withObservations x y b tr sh rs) xo g s

/-- From `s` with other observations the command `i` does the same and adds the same to them. -/
def IgnoresObservations (i : Instr) (s : State) : Prop :=
  ∀ (t : State) (tr : List BusWrite) (sh : Option Frame) (rs : List Status), exec i s = .next t →
    ∃ u new st, exec i (withObservations tr sh rs s) = .next u ∧
      t.trace = s.trace ++ new ∧ u.trace = tr ++ new ∧
      t.responses = s.responses ++ [st] ∧ u.responses = rs ++ [st] ∧
      u = { t with trace := u.trace, shown := u.shown, responses := u.responses }

/-- A command that hands on the observations it finds, with its status added, reads none of them. -/
theorem IgnoresObservations.of_respond {i : Instr} {s : State} (st : Status) (t : State)
    (h : ∀ tr sh rs, exec i (withObservations tr sh rs s) = .next (respond st (withObservations tr sh rs t))) :
    IgnoresObservations i s := by
  intro t' tr sh rs ht'
  obtain rfl := Host.Outcome.next.inj (ht'.symm.trans (h s.trace s.shown s.responses))
  exact ⟨_, [], st, h tr sh rs, (List.append_nil _).symm, (List.append_nil _).symm, rfl, rfl, rfl⟩

theorem construct_ignoresObservations (addr : BitVec 8) (lvl : BitVec 16) (s : State) :
    IgnoresObservations (.construct addr lvl) s := by
  cases hl : legalAddress addr with
  | true =>
    exact .of_respond .ok
      { clearBuffers s with addr := addr.setWidth 7, bright := brightOf s.cfg.roundTie lvl, configured := true }
      fun tr sh rs => exec_construct_legal hl lvl _
  | false => exact .of_respond .errAddress s fun tr sh rs => exec_construct_illegal hl lvl _

theorem setbrt_ignoresObservations (t : Bool) (lvl : BitVec 16) {s : State} (hc : s.configured = true) :
    IgnoresObservations (.setbrt t lvl) s := by
  cases t with
  | false => exact .of_respond .ok (setBright lvl s) fun tr sh rs => exec_setbrt_quiet lvl hc
  | true =>
    intro t tr sh rs h
    cases ha : answerAt s 0 with
    | none => cases h.symm.trans (execSetbrt_stuck lvl s hc ha)
    | some o =>
      cases h.symm.trans (execSetbrt_answered lvl o s hc ha)
      exact ⟨_, [_], _, execSetbrt_answered lvl o (withObservations tr sh rs s) hc ha, rfl, rfl, rfl, rfl, rfl⟩

theorem setpix_ignoresObservations (b : Bool) (x y : BitVec 8) {s : State} (hc : s.configured = true) :
    IgnoresObservations (.setpix b x y) s := by
  by_cases hr : x.toNat < 10 ∧ y.toNat < 8
  · obtain ⟨hx, hy⟩ := hr
    refine .of_respond .ok (writePix ⟨x.toNat, hx⟩ ⟨y.toNat, hy⟩ b s) fun tr sh rs => ?_
    rw [← writePix_withObservations]
    exact execSetpix_inRange b x y (withObservations tr sh rs s) hc hx hy
  · exact .of_respond .errRange s fun tr sh rs => execSetpix_outOfRange b x y _ hc (by omega)

theorem setchr_ignoresObservations (xo ch : BitVec 8) {s : State} (hc : s.configured = true) :
    IgnoresObservations (.setchr xo ch) s := by
  cases hg : lookup s.cfg.font ch.toNat with
  | none => exact .of_respond .errGlyph s fun tr sh rs => execSetchr_badCode hc hg
  | some g =>
    by_cases hx : xo.toNat < 6
    · refine .of_respond .ok (putGlyph ⟨xo.toNat, hx⟩ g s) fun tr sh rs => ?_
      rw [← putGlyph_withObservations]
      exact execSetchr_ok (s := withObservations tr sh rs s) hc hg hx
    · exact .of_respond .errRange s fun tr sh rs => execSetchr_badOffset hc hg (by omega)

theorem setpair_ignoresObservations (len : BitVec 4) (c0 c1 : BitVec 8) {s : State} (hc : s.configured = true) :
    IgnoresObservations (.setpair len c0 c1) s := by
  by_cases hlen : len = 2#4
  case neg => exact .of_respond .errLength s fun tr sh rs => execSetpair_length hc hlen
  subst hlen
  cases h₀ : lookup s.cfg.font c0.toNat with
  | none => exact .of_respond .errGlyph s fun tr sh rs => execSetpair_firstBad hc h₀
  | some g =>
    cases h₁ : lookup s.cfg.font c1.toNat with
    | none =>
      refine .of_respond .errGlyph (putGlyph 0 g s) fun tr sh rs => ?_
      rw [← putGlyph_withObservations]
      exact execSetpair_secondBad hc h₀ h₁
    | some g' =>
      refine .of_respond .ok (putGlyph 5 g' (putGlyph 0 g s)) fun tr sh rs => ?_
      rw [← putGlyph_withObservations, ← putGlyph_withObservations]
      exact execSetpair_ok hc h₀ h₁

/-- What the bus has ready for a SHOW: six successes, or a first write that fails or is never answered (R181, R182,
R245). -/
theorem showAnswers_cases (s : State) :
    (∀ k < 6, answerAt s k = some .success) ∨
    ∃ k < 6, (∀ j < k, answerAt s j = some .success) ∧ (answerAt s k = some .failure ∨ answerAt s k = none) := by
  by_cases hall : ∀ k < 6, answerAt s k = some .success
  · exact .inl hall
  obtain ⟨k, hk, hne, hmin⟩ := exists_first_not_success hall
  refine .inr ⟨k, hk, hmin, ?_⟩
  rcases h : answerAt s k with _ | _ | _
  · exact .inr rfl
  · exact absurd h hne
  · exact .inl rfl

theorem showFrame_ignoresObservations {s : State} (hc : s.configured = true) : IgnoresObservations .showFrame s := by
  intro t tr sh rs h
  obtain ha | ⟨k, hk, ha, hf | hn⟩ := showAnswers_cases s
  · cases h.symm.trans (execShowFrame_ok s hc ha)
    exact ⟨_, _, _, execShowFrame_ok (withObservations tr sh rs s) hc ha, rfl, rfl, rfl, rfl, rfl⟩
  · cases h.symm.trans (execShowFrame_fails s k hc hk ha hf)
    exact ⟨_, _, _, execShowFrame_fails (withObservations tr sh rs s) k hc hk ha hf, rfl, rfl, rfl, rfl, rfl⟩
  · cases h.symm.trans (execShowFrame_stuck s k hc hk ha hn)

/-- Settles O33: the CONFIGURED check first, then command by command. -/
theorem observationsAreNeverRead : Obligations.ObservationsAreNeverRead := by
  intro i s
  by_cases hun : s.configured = false ∧ i.mnemonic ≠ .construct
  · obtain ⟨hc, hi⟩ := hun
    exact IgnoresObservations.of_respond .errUnconfigured s fun tr sh rs => exec_unconfigured i _ hc hi
  have hc : i.mnemonic ≠ .construct → s.configured = true := fun hi => by simpa [hi] using hun
  cases i with
  | construct addr lvl => exact construct_ignoresObservations addr lvl s
  | clear =>
    exact IgnoresObservations.of_respond .ok (clearBuffers s) fun tr sh rs => exec_clear_configured (hc nofun)
  | setbrt t lvl => exact setbrt_ignoresObservations t lvl (hc nofun)
  | setdec l r =>
    exact IgnoresObservations.of_respond .ok (setDecimals l r s) fun tr sh rs => exec_setdec_configured l r (hc nofun)
  | setpix b x y => exact setpix_ignoresObservations b x y (hc nofun)
  | setchr xo ch => exact setchr_ignoresObservations xo ch (hc nofun)
  | setpair len c0 c1 => exact setpair_ignoresObservations len c0 c1 (hc nofun)
  | showFrame => exact showFrame_ignoresObservations (hc nofun)

end Sys2Proof.Machine
end

section
/-! PROOFS. The step (20_memory.md R57) and reset (70_reset_and_hazards.md R230), and the invariant that every step keeps
(10_state.md). -/

namespace Sys2Proof.Machine

open Sys2Proof.Claims

/-! ### The step -/

theorem step_of_reset {s : State} {rest : List HostInput} (hp : s.port = .reset :: rest) :
    step s = takeReset { s with port := rest } := by
  simp only [step, hp]

theorem step_of_empty_port {s : State} (hp : s.port = []) : step s = .next s := by
  simp only [step, hp]

theorem withFetchWord_port (s : State) (w : Word) : (s.withFetchWord 32 w.toNat).port = .word w :: s.port := by
  rw [State.withFetchWord, Nat.mod_eq_of_lt w.isLt, BitVec.ofNat_toNat, BitVec.setWidth_eq]

/-- Settles O7: `withFetchWord` places a word that decodes to the command, and taking it from the port undoes the
placing. -/
theorem stepRunsTheDecodedCommand : Obligations.StepRunsTheDecodedCommand :=
  ⟨fun _ _ _ _ => step_of_decode_ok, fun s i hi => step_of_decode_ok (withFetchWord_port s (encode i)) (decode_encode hi),
    fun _ _ => step_of_reset, fun _ => step_of_empty_port⟩

/-- Settles O8: both states are written out by their definitions. -/
theorem resetLeavesTheControllerUnconfigured : Obligations.ResetLeavesTheControllerUnconfigured :=
  ⟨⟨rfl, rfl, rfl, rfl, rfl⟩, fun _ _ hp => ⟨_, step_of_reset hp, rfl, rfl, rfl, rfl, rfl, rfl, rfl, rfl, rfl⟩⟩

end Sys2Proof.Machine

namespace Sys2Proof.Claims

open Sys2Proof.Machine

/-! ### The invariant -/

/-- A controller that is unconfigured, with empty TRACE and no frame shown, meets the invariant whatever ADDR, BRIGHT
and the buffers hold. -/
theorem controllerInv_of_cleared {s : State} (hc : s.configured = false) (hseq : s.seq = none) (htr : s.trace = [])
    (hsh : s.shown = none) : ControllerInv s where
  addrLegal h := by simp [hc] at h
  spareZero h := by simp [hc] at h
  seqIdle := hseq
  traceLegal := by simp [htr]
  shownSent := by simp [hsh]

/-- Settles O36: reset clears all that the invariant speaks of but the free values. -/
theorem controllerInvariantHoldsAtReset : Obligations.ControllerInvariantHoldsAtReset :=
  controllerInv_of_cleared rfl rfl rfl rfl

/-- The three legal addresses, cut to the seven bits of ADDR (R28, R53). -/
theorem legalAddr_of_legalAddress {addr : BitVec 8} (h : legalAddress addr = true) : LegalAddr (addr.setWidth 7) := by
  rcases (legalAddress_iff addr).1 h with rfl | rfl | rfl
  · exact .inl rfl
  · exact .inr (.inl rfl)
  · exact .inr (.inr rfl)

/-- The invariant does not speak of the statuses, the port or BRIGHT. -/
theorem ControllerInv.of_respond {s : State} (h : ControllerInv s) (st : Status) : ControllerInv (respond st s) :=
  ⟨h.addrLegal, h.spareZero, h.seqIdle, h.traceLegal, h.shownSent⟩

theorem ControllerInv.of_port {s : State} (h : ControllerInv s) (port : List HostInput) :
    ControllerInv { s with port := port } :=
  ⟨h.addrLegal, h.spareZero, h.seqIdle, h.traceLegal, h.shownSent⟩

theorem ControllerInv.of_setBright {s : State} (h : ControllerInv s) (lvl : BitVec 16) :
    ControllerInv (setBright lvl s) :=
  ⟨h.addrLegal, h.spareZero, h.seqIdle, h.traceLegal, h.shownSent⟩

/-- A change of the buffers keeps the invariant when it keeps the spare bits zero (R25). -/
theorem ControllerInv.of_onlyBuffersChange {s t : State} {st : Status} (h : ControllerInv s)
    (ht : OnlyBuffersChange s t st) (hspare : s.configured = true → SpareBitsZero t) : ControllerInv t := by
  rw [ht] at hspare ⊢
  exact ⟨h.addrLegal, hspare, h.seqIdle, h.traceLegal, h.shownSent⟩

/-- A configured controller's writes keep TRACE legal, since ADDR is (R52, R53). -/
theorem ControllerInv.traceLegal_append {i : Instr} {s : State} {new : List BusWrite} (h : ControllerInv s)
    (hc : s.configured = true) (hw : LegalWrites i s new) :
    ∀ e ∈ s.trace ++ new, LegalAddr e.addr ∧ InRegisterMap e.reg e.bytes := by
  intro e he
  rcases List.mem_append.1 he with he | he
  · exact h.traceLegal e he
  · obtain ⟨haddr, hmap⟩ := hw.1 e he
    exact ⟨haddr ▸ h.addrLegal hc, hmap⟩

/-- Every command keeps the invariant. -/
theorem ControllerInv.of_exec {i : Instr} {s t : State} (hs : ControllerInv s) (h : exec i s = .next t) :
    ControllerInv t := by
  cases exec_effect h with
  | refused st _ _ ht => exact ht ▸ hs.of_respond st
  | constructed addr lvl _ hl ht =>
    rw [ht]
    exact ⟨fun _ => legalAddr_of_legalAddress hl, fun _ => clearBuffers_spare s, hs.seqIdle, hs.traceLegal,
      hs.shownSent⟩
  | buffers st _ _ _ _ he =>
    refine hs.of_onlyBuffersChange he.only fun hc => ?_
    obtain hi | hkeeps := he.spare
    · exact he.zero hi
    · exact hkeeps (hs.spareZero hc)
  | bright lvl _ _ ht => exact ht ▸ (hs.of_setBright lvl).of_respond .ok
  | transmitted lvl o _ hc _ ht =>
    rw [ht]
    exact ⟨hs.addrLegal, hs.spareZero, hs.seqIdle, hs.traceLegal_append hc (legalWrites_transmit lvl s _ o), nofun⟩
  | shown _ hc _ ht =>
    rw [ht]
    exact ⟨hs.addrLegal, hs.spareZero, rfl, hs.traceLegal_append hc (legalWrites_frame s),
      fun f hf => ⟨s.trace, s.addr, by rw [← Option.some.inj hf]⟩⟩
  | showFailed k _ hc hk _ _ ht =>
    rw [ht]
    exact ⟨hs.addrLegal, hs.spareZero, rfl, hs.traceLegal_append hc (legalWrites_failedFrame s hk), nofun⟩

/-- Settles O37: waiting and taking a word change nothing of it, a reset clears what it speaks of, and the commands are
`ControllerInv.of_exec`. -/
theorem everyStepKeepsTheControllerInvariant : Obligations.EveryStepKeepsTheControllerInvariant := by
  intro s t hs h
  cases step_effect h with
  | waiting _ ht => exact ht ▸ hs
  | reset rest _ ht =>
    cases ht
    exact controllerInv_of_cleared rfl rfl rfl rfl
  | illegal w rest e _ _ ht => exact ht ▸ (hs.of_port rest).of_respond .errIllegal
  | command w rest i _ _ he => exact (hs.of_port rest).of_exec he

end Sys2Proof.Claims
end

section
/-! PROOFS. Runs of the whole controller: what the host can learn from them (30_encoding.md R93), and that they end
(70_reset_and_hazards.md section 5). -/

namespace Sys2Proof.Claims

open Sys2Proof.Machine

/-! ### What the host can learn -/

theorem SameForHost.answerAt_eq {s t : State} (h : SameForHost s t) (k : Nat) : answerAt t k = answerAt s k :=
  answerAt_congr h.busScript.symm h.busDraws.symm k

theorem SameForHost.with_port {s t : State} (h : SameForHost s t) (port : List HostInput) :
    SameForHost { s with port := port } { t with port := port } :=
  ⟨h.configured, h.responses, rfl, h.busScript, h.busDraws⟩

theorem SameForHost.with_status {s t : State} (h : SameForHost s t) (st : Status) :
    SameForHost (respond st s) (respond st t) :=
  ⟨h.configured, congrArg (· ++ [st]) h.responses, h.port, h.busScript, h.busDraws⟩

/-- A command that gives the same statuses and takes the same answers leaves the same for the host: CONFIGURED rises
with a CONSTRUCT whose status is OK and never else, and the port is not touched. -/
theorem SameForHost.after_exec {i : Instr} {s t s' t' : State} (h : SameForHost s t) (hs : exec i s = .next s')
    (ht : exec i t = .next t') (hr : s'.responses = t'.responses) (hscript : s'.busScript = t'.busScript)
    (hdraws : s'.busDraws = t'.busDraws) : SameForHost s' t' := by
  refine ⟨?_, hr, ?_, hscript, hdraws⟩
  · obtain ⟨hi, hsr, hsc⟩ | ⟨hsn, -, hsc⟩ := exec_addr_configured hs <;>
      obtain ⟨hi', htr, htc⟩ | ⟨htn, -, htc⟩ := exec_addr_configured ht
    · rw [hsc, htc]
    · exact absurd ⟨hi, by rw [← hr, hsr, h.responses]⟩ htn
    · exact absurd ⟨hi', by rw [hr, htr, h.responses]⟩ hsn
    · rw [hsc, htc, h.configured]
  · rw [(exec_port_resets hs).1, (exec_port_resets ht).1, h.port]

/-- A command without bus writes: CONFIGURED and the operands decide its status. -/
theorem exec_quiet_sameForHost {i : Instr} {s t s' : State} (h : SameForHost s t) (hq : quiet i = true)
    (hc : i.mnemonic ≠ .construct → s.configured = true) (hs : exec i s = .next s') :
    ∃ t', exec i t = .next t' ∧ SameForHost s' t' := by
  obtain ⟨s₁, hs₁, hsr⟩ := reports_of_quiet hq hc
  obtain ⟨t', ht', htr⟩ := reports_of_quiet (s := t) hq fun hi => h.configured ▸ hc hi
  cases hs.symm.trans hs₁
  have hbs := exec_sameBus_of_quiet hq hs
  have hbt := exec_sameBus_of_quiet hq ht'
  exact ⟨t', ht', h.after_exec hs ht' (by rw [hsr, htr, h.responses])
    (by rw [hbs.busScript, hbt.busScript, h.busScript]) (by rw [hbs.busDraws, hbt.busDraws, h.busDraws])⟩

/-- SHOW: CONFIGURED and the answers of the bus decide its status and how many answers it takes. -/
theorem exec_showFrame_sameForHost {s t s' : State} (h : SameForHost s t) (hc : s.configured = true)
    (hs : exec .showFrame s = .next s') : ∃ t', exec .showFrame t = .next t' ∧ SameForHost s' t' := by
  have hct : t.configured = true := h.configured ▸ hc
  obtain ha | ⟨k, hk, ha, hf | hn⟩ := showAnswers_cases s
  · have ht := execShowFrame_ok t hct fun k hk => (h.answerAt_eq k).trans (ha k hk)
    cases hs.symm.trans (execShowFrame_ok s hc ha)
    exact ⟨_, ht, h.after_exec hs ht (by simp [h.responses]) (by simp [h.busScript]) (by simp [h.busScript, h.busDraws])⟩
  · have ht := execShowFrame_fails t k hct hk (fun j hj => (h.answerAt_eq j).trans (ha j hj))
      ((h.answerAt_eq k).trans hf)
    cases hs.symm.trans (execShowFrame_fails s k hc hk ha hf)
    exact ⟨_, ht, h.after_exec hs ht (by simp [h.responses]) (by simp [h.busScript]) (by simp [h.busScript, h.busDraws])⟩
  · cases hs.symm.trans (execShowFrame_stuck s k hc hk ha hn)

/-- SETBRT with transmit, like SHOW, with its one answer. -/
theorem exec_transmit_sameForHost {lvl : BitVec 16} {s t s' : State} (h : SameForHost s t) (hc : s.configured = true)
    (hs : exec (.setbrt true lvl) s = .next s') : ∃ t', exec (.setbrt true lvl) t = .next t' ∧ SameForHost s' t' := by
  have hct : t.configured = true := h.configured ▸ hc
  cases ha : answerAt s 0 with
  | none => cases hs.symm.trans (execSetbrt_stuck lvl s hc ha)
  | some o =>
    have ht := execSetbrt_answered lvl o t hct ((h.answerAt_eq 0).trans ha)
    cases hs.symm.trans (execSetbrt_answered lvl o s hc ha)
    exact ⟨_, ht, h.after_exec hs ht (by simp [h.responses]) (by simp [h.busScript]) (by simp [h.busScript, h.busDraws])⟩

/-- No command shows the host more than CONFIGURED and the bus's answers. -/
theorem exec_sameForHost {i : Instr} {s t s' : State} (h : SameForHost s t) (hs : exec i s = .next s') :
    ∃ t', exec i t = .next t' ∧ SameForHost s' t' := by
  by_cases hun : s.configured = false ∧ i.mnemonic ≠ .construct
  · obtain ⟨hc, hi⟩ := hun
    cases hs.symm.trans (exec_unconfigured i s hc hi)
    exact ⟨_, exec_unconfigured i t (h.configured ▸ hc) hi, h.with_status _⟩
  have hc : i.mnemonic ≠ .construct → s.configured = true := fun hi => by simpa [hi] using hun
  cases hq : quiet i with
  | true => exact exec_quiet_sameForHost h hq hc hs
  | false =>
    obtain ⟨lvl, rfl⟩ | rfl := setbrt_or_showFrame_of_not_quiet hq
    · exact exec_transmit_sameForHost h (hc nofun) hs
    · exact exec_showFrame_sameForHost h (hc nofun) hs

/-- The relation is kept by one step of both controllers (R93, R252). -/
theorem step_sameForHost {s t s' : State} (h : SameForHost s t) (hs : step s = .next s') :
    ∃ t', step t = .next t' ∧ SameForHost s' t' := by
  cases step_effect hs with
  | waiting hp hs' => exact ⟨t, step_of_empty_port (h.port ▸ hp), hs' ▸ h⟩
  | reset rest hp hs' =>
    cases hs'
    exact ⟨_, step_of_reset (h.port ▸ hp), ⟨rfl, h.responses, rfl, h.busScript, h.busDraws⟩⟩
  | illegal w rest e hp hd hs' =>
    exact ⟨_, step_of_decode_error (h.port ▸ hp) hd, hs' ▸ (h.with_port rest).with_status .errIllegal⟩
  | command w rest i hp hd he =>
    rw [step_of_decode_ok (h.port ▸ hp) hd]
    exact exec_sameForHost (h.with_port rest) he

/-- A run begins with a step. -/
theorem run_succ_of_step {M : Host.Core} {s t : M.State} (h : M.step s = .next t) (n : Nat) :
    M.run (n + 1) s = M.run n t := by
  rw [Host.Core.run, h]

/-- Settles O34: the relation holds along the two runs, step by step. -/
theorem statusesRevealNoBufferContents : Obligations.StatusesRevealNoBufferContents := by
  intro n
  induction n with
  | zero =>
    intro s t s' h hrun
    cases hrun
    exact ⟨t, rfl, h⟩
  | succ n ih =>
    intro s t s' h hrun
    obtain ⟨s₁, hs₁, hrun'⟩ := exists_step_of_run_succ hrun
    obtain ⟨t₁, ht₁, h₁⟩ := step_sameForHost h hs₁
    obtain ⟨t', ht', h'⟩ := ih s₁ t₁ s' h₁ hrun'
    exact ⟨t', (run_succ_of_step (M := Sys2Proof.core) ht₁ n).trans ht', h'⟩

end Sys2Proof.Claims

namespace Sys2Proof.Machine

open Sys2Proof.Claims

/-! ### Runs end -/

theorem writesOf_le_six (i : Instr) : writesOf i ≤ 6 := by
  cases i with
  | setbrt t lvl => cases t <;> simp [writesOf]
  | showFrame => exact Nat.le_refl 6
  | _ => exact Nat.zero_le 6

/-- With six answers ready the next word is taken and answered with one status, and at most those six are used. -/
theorem step_takes_word {s : State} {w : Word} {rest : List HostInput} (hp : s.port = .word w :: rest)
    (ha : ∀ k < 6, answerAt s k ≠ none) :
    ∃ t st, step s = .next t ∧ t.port = rest ∧ t.responses = s.responses ++ [st] ∧
      ∃ n ≤ 6, ∀ k, answerAt t k = answerAt s (n + k) := by
  cases hd : decode w with
  | error e =>
    exact ⟨_, .errIllegal, step_of_decode_error hp hd, rfl, rfl, 0, Nat.zero_le 6, fun k => by rw [Nat.zero_add]; rfl⟩
  | ok i =>
    obtain ⟨t, ht⟩ := exec_next_of_answered i { s with port := rest } fun k hk =>
      ha k (Nat.lt_of_lt_of_le hk (writesOf_le_six i))
    obtain ⟨st, hst, -⟩ := everyCommandReturnsOneOfItsStatuses.2 i _ t ht
    exact ⟨t, st, (step_of_decode_ok hp hd).trans ht, (exec_port_resets ht).1, hst,
      exec_answerAt (s := { s with port := rest }) ht⟩

/-- Settles O35: each word takes at most six of the answers, so the rest of the list finds six for each of its words. -/
theorem runAnswersEveryWordOnce : Obligations.RunAnswersEveryWordOnce := by
  intro ws
  induction ws with
  | nil => exact fun s hp _ => ⟨s, [], rfl, hp, by simp, rfl⟩
  | cons w ws ih =>
    intro s hp ha
    rw [List.length_cons] at ha
    obtain ⟨t, st, hst, htp, htr, n, hn, hta⟩ := step_takes_word hp fun k hk => ha k (by omega)
    obtain ⟨u, sts, hu, hup, hur, hlen⟩ := ih t htp fun k hk => by
      rw [hta]
      exact ha (n + k) (by omega)
    exact ⟨u, st :: sts, (run_succ_of_step (M := Sys2Proof.core) hst _).trans hu, hup,
      by rw [hur, htr, List.append_assoc, List.singleton_append], by rw [List.length_cons, List.length_cons, hlen]⟩

end Sys2Proof.Machine
end

section
/-! PROOFS. The brightness conversion in exact arithmetic (41_config_ops.md R121). -/

namespace Sys2Proof.Machine

open Sys2Proof.Claims

/-- `round` is the floor or one above it: the floor when the remainder is under half or is a half that the tie rule takes
down, to an even number (R121). -/
theorem roundRatio_cases (tie : RoundTie) (n : Int) (d : Nat) :
    (roundRatio tie n d = n / d ∧ (2 * (n % d) < d ∨ 2 * (n % d) = d ∧ tie = .toEven ∧ n / d % 2 = 0)) ∨
    (roundRatio tie n d = n / d + 1 ∧ (d < 2 * (n % d) ∨ 2 * (n % d) = d ∧ (tie = .toEven → n / d % 2 ≠ 0))) := by
  cases tie <;> simp only [roundRatio]
  case toEven =>
    split_ifs with hlt hgt heven
    · exact .inl ⟨rfl, .inl hlt⟩
    · exact .inr ⟨rfl, .inl hgt⟩
    · exact .inl ⟨rfl, .inr ⟨by omega, trivial, heven⟩⟩
    · exact .inr ⟨rfl, .inr ⟨by omega, fun _ => heven⟩⟩
  case upward =>
    split_ifs with hlt hgt
    · exact .inl ⟨rfl, .inl hlt⟩
    · exact .inr ⟨rfl, .inl hgt⟩
    · exact .inr ⟨rfl, .inr ⟨by omega, nofun⟩⟩

/-- `round` is to nearest, an exact half to the even neighbour or upward (R121). -/
theorem roundRatio_nearest (tie : RoundTie) (n : Int) {d : Nat} (hd : 0 < d) :
    2 * (n - roundRatio tie n d * d) ≤ d ∧ -(d : Int) ≤ 2 * (n - roundRatio tie n d * d) ∧
    (tie = .toEven → 2 * (n - roundRatio tie n d * d) = d ∨ 2 * (n - roundRatio tie n d * d) = -(d : Int) →
      roundRatio tie n d % 2 = 0) ∧
    (tie = .upward → 2 * (n - roundRatio tie n d * d) ≠ d) := by
  have hd' : (0 : Int) < d := by omega
  have hr0 := Int.emod_nonneg n hd'.ne'
  have hr1 := Int.emod_lt_of_pos n hd'
  have hfloor : n - n / d * d = n % d := by rw [Int.emod_def, Int.mul_comm]
  have hceil : n - (n / d + 1) * d = n % d - d := by rw [Int.add_mul, ← hfloor]; omega
  obtain ⟨hq, hcase⟩ | ⟨hq, hcase⟩ := roundRatio_cases tie n d
  · rw [hq, hfloor]
    refine ⟨by omega, by omega, fun ht hh => ?_, fun ht hh => ?_⟩
    · omega
    · rcases hcase with hlt | ⟨-, ht', -⟩
      · omega
      · cases ht.symm.trans ht'
  · rw [hq, hceil]
    refine ⟨by omega, by omega, fun ht hh => ?_, fun _ => by omega⟩
    rcases hcase with hgt | ⟨-, hodd⟩
    · omega
    · have := hodd ht
      omega

/-- BRIGHT holds the clamped value, which fits its seven bits (R27, R121). -/
theorem brightOf_toNat (tie : RoundTie) (lvl : BitVec 16) : (brightOf tie lvl).toNat = brightFormula lvl := by
  have := brightFormula_le lvl
  rw [brightOf_eq_formula, BitVec.toNat_ofNat]
  omega

theorem brightFormula_eq_brightOfRatio (tie : RoundTie) (lvl : BitVec 16) :
    (brightFormula lvl : Int) = brightOfRatio tie lvl.toInt 256 := by
  rw [brightOfRatio_eq_formula, brightFormula]
  exact Int.toNat_of_nonneg (le_max_left 0 _)

/-- Settles O10: rounding by its two neighbours, the clamp, and the integer formula of R121, by which the table is
evaluated. -/
theorem brightnessIsTheClampedRounding : Obligations.BrightnessIsTheClampedRounding := by
  refine ⟨fun tie n d hd => roundRatio_nearest tie n hd, fun tie n d => clamp_eq_max_min (by decide),
    fun tie lvl => ⟨?_, brightOf_toNat tie lvl, ?_⟩, fun p hp tie => ?_, fun tie => ?_⟩
  · rw [brightOf_toNat, brightFormula_eq_brightOfRatio tie]
  · have hlo := BitVec.le_toInt lvl
    have hhi := BitVec.toInt_lt (x := lvl)
    omega
  · rw [brightOf_toNat]
    revert p
    decide
  · cases tie <;> rfl

end Sys2Proof.Machine
end

section
/-! PROOFS. The laws of pixel and character writes (42_buffer_ops.md section 4, 43_character_ops.md R161 to R164). -/

namespace Sys2Proof.Machine

open Sys2Proof.Claims

/-! ### Pixel writes -/

/-- States that came from one by changing the buffers alone are the same when their buffer bits are. -/
theorem eq_of_buffer_bits {s t u : State} (ht : t = { s with lbuf := t.lbuf, rbuf := t.rbuf })
    (hu : u = { s with lbuf := u.lbuf, rbuf := u.rbuf })
    (hl : ∀ i k : Fin 8, t.lbuf[i.val].getLsbD k.val = u.lbuf[i.val].getLsbD k.val)
    (hr : ∀ i k : Fin 8, t.rbuf[i.val].getLsbD k.val = u.rbuf[i.val].getLsbD k.val) : t = u := by
  rw [ht, hu, buffer_ext_bits hl, buffer_ext_bits hr]

theorem writePixes_eq (x x' : Fin 10) (y y' : Fin 8) (b b' : Bool) (s : State) :
    writePix x y b (writePix x' y' b' s) = { s with
      lbuf := (writePix x y b (writePix x' y' b' s)).lbuf, rbuf := (writePix x y b (writePix x' y' b' s)).rbuf } :=
  buffersOnly_trans (writePix_eq x' y' b' s) (writePix_eq x y b _)

/-- The last write to a pixel wins. -/
theorem writePix_writePix_same (x : Fin 10) (y : Fin 8) (b c : Bool) (s : State) :
    writePix x y c (writePix x y b s) = writePix x y c s := by
  refine eq_of_buffer_bits (writePixes_eq x x y y c b s) (writePix_eq x y c s) (fun i k => ?_) fun i k => ?_
  · simp only [writePix_lbuf_bit]
    split_ifs <;> rfl
  · simp only [writePix_rbuf_bit]
    split_ifs <;> rfl

/-- No two pixels share a buffer bit (R23), so writes to two pixels commute. -/
theorem writePix_comm {x x' : Fin 10} {y y' : Fin 8} (h : x ≠ x' ∨ y ≠ y') (b c : Bool) (s : State) :
    writePix x' y' c (writePix x y b s) = writePix x y b (writePix x' y' c s) := by
  refine eq_of_buffer_bits (writePixes_eq x' x y' y c b s) (writePixes_eq x x' y y' b c s) (fun i k => ?_)
    fun i k => ?_
  · simp only [writePix_lbuf_bit]
    apply ite_ite_comm
    omega
  · simp only [writePix_rbuf_bit]
    apply ite_ite_comm
    omega

/-- Writing to a pixel the value it has changes nothing. -/
theorem writePix_pix (x : Fin 10) (y : Fin 8) (s : State) : writePix x y (pix s x y) s = s := by
  refine eq_of_buffer_bits (writePix_eq x y _ s) rfl (fun i k => ?_) fun i k => ?_
  · rw [writePix_lbuf_bit, ite_eq_right_iff]
    rintro ⟨h4, hi, hk⟩
    rw [pix, dif_pos h4]
    simp only [hi, hk]
  · rw [writePix_rbuf_bit, ite_eq_right_iff]
    rintro ⟨h5, hi, hk⟩
    rw [pix, dif_neg (by omega)]
    simp only [hi, hk]

theorem writePix_respond (x : Fin 10) (y : Fin 8) (b : Bool) (st : Status) (s : State) :
    writePix x y b (respond st s) = respond st (writePix x y b s) := by
  unfold writePix
  split <;> rfl

/-- The second of two statuses alone: the state after one command, from the state after two. -/
theorem next_second_status {r : Result} {s t : State} {st : Status} (st' : Status) (h : r = .next (respond st t))
    (ht : t.responses = s.responses) :
    r = .next { respond st (respond st' t) with responses := s.responses ++ [st] } := by
  rw [h, ← ht]
  rfl

theorem exec_setpix_respond (b : Bool) (x y : BitVec 8) (st : Status) {s : State} (hc : s.configured = true)
    (hx : x.toNat < 10) (hy : y.toNat < 8) :
    exec (.setpix b x y) (respond st s) =
      .next (respond .ok (respond st (writePix ⟨x.toNat, hx⟩ ⟨y.toNat, hy⟩ b s))) := by
  rw [← writePix_respond]
  exact execSetpix_inRange b x y (respond st s) hc hx hy

/-- Two SETPIX in range are two WritePix and two statuses. -/
theorem runCommands_setpix_setpix (b c : Bool) {x y x' y' : BitVec 8} {s : State} (hc : s.configured = true)
    (hx : x.toNat < 10) (hy : y.toNat < 8) (hx' : x'.toNat < 10) (hy' : y'.toNat < 8) :
    runCommands [.setpix b x y, .setpix c x' y'] s = .next (respond .ok (respond .ok
      (writePix ⟨x'.toNat, hx'⟩ ⟨y'.toNat, hy'⟩ c (writePix ⟨x.toNat, hx⟩ ⟨y.toNat, hy⟩ b s)))) := by
  have hfirst : exec (.setpix b x y) s = _ := execSetpix_inRange b x y s hc hx hy
  rw [runCommands_cons_of_next hfirst,
    runCommands_cons_of_next (exec_setpix_respond c x' y' .ok (by simpa using hc) hx' hy'), runCommands]

/-- Two pairs of coordinate bytes in range name two pixels. -/
theorem pixel_ne {x y x' y' : BitVec 8} (hne : (x, y) ≠ (x', y')) (hx : x.toNat < 10) (hy : y.toNat < 8)
    (hx' : x'.toNat < 10) (hy' : y'.toNat < 8) :
    (⟨x.toNat, hx⟩ : Fin 10) ≠ ⟨x'.toNat, hx'⟩ ∨ (⟨y.toNat, hy⟩ : Fin 8) ≠ ⟨y'.toNat, hy'⟩ := by
  simpa only [ne_eq, Fin.mk.injEq, BitVec.toNat_inj, Prod.mk.injEq, not_and_or] using hne

/-- Settles O15: the laws of WritePix, carried through the statuses of the commands. -/
theorem pixelWritesCommuteAndLastWins : Obligations.PixelWritesCommuteAndLastWins := by
  refine ⟨fun b c x y s t u hc hx hy ht hu => ?_, fun b c x y x' y' s hc hx hy hx' hy' hne => ?_,
    fun x y s hx hy hc => ?_⟩
  · have hx : x.toNat < 10 := by omega
    have hy : y.toNat < 8 := by omega
    cases ht.symm.trans (execSetpix_inRange b x y s hc hx hy)
    cases hu.symm.trans (exec_setpix_respond c x y .ok (by simpa using hc) hx hy)
    rw [writePix_writePix_same]
    exact next_second_status .ok (execSetpix_inRange c x y s hc hx hy) (writePix_responses _ _ _ s)
  · refine ⟨_, runCommands_setpix_setpix b c hc (by omega) (by omega) (by omega) (by omega), ?_⟩
    rw [runCommands_setpix_setpix c b hc (by omega) (by omega) (by omega) (by omega), writePix_comm]
    exact pixel_ne hne.symm (by omega) (by omega) (by omega) (by omega)
  · refine ⟨_, runCommands_setpix_setpix true false hc hx hy hx hy, ?_, fun hunlit => ?_⟩
    · simp [pix_writePix]
    · have hrestored := writePix_pix ⟨x.toNat, hx⟩ ⟨y.toNat, hy⟩ s
      rw [hunlit] at hrestored
      simp only [respond_lbuf, respond_rbuf, writePix_writePix_same, hrestored, and_self]

/-! ### Characters -/

/-- Settles O19: SETCHR is one PutChar, known byte by byte on the left and bit by bit on the right. -/
theorem setCharacterClosedForms : Obligations.SetCharacterClosedForms := by
  intro xo ch g s hxo hc hg
  refine ⟨_, execSetchr_ok hc hg (by omega), fun i => ?_, fun y b => ?_⟩
  · rw [respond_lbuf, putGlyph_lbuf_byte]
  · rw [respond_rbuf, putGlyph_rbuf_bit]

theorem putGlyph_respond (xo : Fin 6) (g : Glyph) (st : Status) (s : State) :
    putGlyph xo g (respond st s) = respond st (putGlyph xo g s) :=
  putGlyph_comm_of_writePix (fun x y b => writePix_respond x y b st) xo g s

/-- SETCHR at offset 5 right after a command that ended OK. -/
theorem exec_setchr_five_bad {ch : BitVec 8} {s : State} (h : lookup s.cfg.font ch.toNat = none)
    (hc : s.configured = true) :
    exec (.setchr 5#8 ch) (respond .ok s) = .next (respond .errGlyph (respond .ok s)) :=
  execSetchr_badCode (s := respond .ok s) hc h

theorem exec_setchr_five_ok {ch : BitVec 8} {g : Glyph} {s : State} (h : lookup s.cfg.font ch.toNat = some g)
    (hc : s.configured = true) :
    exec (.setchr 5#8 ch) (respond .ok s) = .next (respond .ok (respond .ok (putGlyph 5 g s))) := by
  rw [← putGlyph_respond]
  exact execSetchr_ok (s := respond .ok s) hc h (by decide)

/-- Settles O21: the checks of SETPAIR are those of the two SETCHR in order, and so are its two glyph writes. -/
theorem setPairEqualsTwoSetCharacters : Obligations.SetPairEqualsTwoSetCharacters := by
  intro c0 c1 s
  cases hc : s.configured with
  | false =>
    exact ⟨.errUnconfigured, _, exec_unconfigured _ s hc nofun, rfl, fun _ => exec_unconfigured _ s hc nofun, nofun⟩
  | true =>
    cases h₀ : lookup s.cfg.font c0.toNat with
    | none => exact ⟨.errGlyph, _, execSetchr_badCode hc h₀, rfl, fun _ => execSetpair_firstBad hc h₀, nofun⟩
    | some g =>
      have hfirst : exec (.setchr 0#8 c0) s = .next (respond .ok (putGlyph 0 g s)) := execSetchr_ok hc h₀ (by decide)
      have hc' : (putGlyph 0 g s).configured = true := (putGlyph_configured 0 g s).trans hc
      refine ⟨.ok, _, hfirst, by simp, fun hne => absurd rfl hne, fun _ => ?_⟩
      cases h₁ : lookup s.cfg.font c1.toNat with
      | none =>
        have h₁' : lookup (putGlyph 0 g s).cfg.font c1.toNat = none := by rw [putGlyph_cfg, h₁]
        exact ⟨.errGlyph, _, exec_setchr_five_bad h₁' hc', respond_responses _ _,
          next_second_status .ok (execSetpair_secondBad hc h₀ h₁) (putGlyph_responses 0 g s)⟩
      | some g' =>
        have h₁' : lookup (putGlyph 0 g s).cfg.font c1.toNat = some g' := by rw [putGlyph_cfg, h₁]
        exact ⟨.ok, _, exec_setchr_five_ok h₁' hc', by simp, next_second_status .ok (execSetpair_ok hc h₀ h₁) (by simp)⟩

end Sys2Proof.Machine
end

section
/-! PROOFS. The bus under SETBRT and SHOW (44_show.md R184, 70_reset_and_hazards.md R245). -/

namespace Sys2Proof.Machine

open Sys2Proof.Claims

/-- Settles O24: SETBRT stops at its one write, SHOW at the first that is not answered. -/
theorem unansweredWriteHoldsTheController : Obligations.UnansweredWriteHoldsTheController :=
  ⟨execSetbrt_stuck, execShowFrame_stuck⟩

/-- The state a SHOW leaves when its six writes succeed (R180). -/
def shownOnce (s : State) : State :=
  { afterAnswers 6 s with
    trace := s.trace ++ frameWrites s.addr (frameOf s)
    shown := some (frameOf s)
    seq := none
    responses := s.responses ++ [.ok] }

/-- Settles O25: the second SHOW finds the buffers, BRIGHT and ADDR as the first did, and the next six answers. -/
theorem repeatedShowSendsTheSameFrameTwice : Obligations.RepeatedShowSendsTheSameFrameTwice := by
  intro s hc ha
  have hfirst : exec .showFrame s = .next (shownOnce s) := execShowFrame_ok s hc fun k hk => ha k (by omega)
  have hnext (k : Nat) (hk : k < 6) : answerAt (shownOnce s) k = some .success :=
    (answerAt_afterAnswers s 6 k).trans (ha (6 + k) (by omega))
  have hsecond : exec .showFrame (shownOnce s) = .next (shownOnce (shownOnce s)) :=
    execShowFrame_ok (shownOnce s) hc hnext
  exact ⟨_, (runCommands_cons_of_next hfirst _).trans (runCommands_cons_of_next hsecond []), rfl, rfl, rfl, rfl, rfl,
    List.append_assoc _ _ _⟩

end Sys2Proof.Machine
end
